-- ==== Sys2Proof/Word.lean ====
section
/-! DEFINITION. The word types of HSB: a byte and a byte sequence (spec/00_scope.md R10, R11). -/

namespace Sys2Proof

/-- A byte: 8 bits, a value 0 to 255, bit 7 most significant (R10). -/
abbrev Byte := BitVec 8

/-- A byte sequence, index 0 first (R11). -/
abbrev Bytes := List Byte

end Sys2Proof
end

