-- ==== Sys2Proof/Config.lean ====
section
/-! DEFINITION. What is fixed for the machine: the constants of spec/00_scope.md R6, the open parameters of R7,
the status codes' names (spec/30_encoding.md R90) and the free values. -/

namespace Sys2Proof

namespace Config

/-! ### The constants of R6, which a model takes as constants, not arguments. -/

/-- `START_FLAG`: first byte of every frame. -/
def startFlag : Byte := 0x0B

/-- `END_FLAG`: last byte of every frame. -/
def endFlag : Byte := 0x0C

/-- `ESC`: escape byte of the Byte Stuffer. -/
def esc : Byte := 0x7D

/-- `MASK`: XOR mask applied to an escaped byte (R9: `0x50`, never `0x20`). -/
def mask : Byte := 0x50

/-- `JAM_BYTE`. -/
def jamByte : Byte := 0xFF

/-- `JAM_LEN`. -/
def jamLen : Nat := 4

/-- `MAX_PAYLOAD`: payload bytes per frame, and the segmentation chunk size. -/
def maxPayload : Nat := 64

/-- `HEADER_LEN`: start flag, total, sequence. -/
def headerLen : Nat := 3

/-- `TRAILER_LEN`: end flag. -/
def trailerLen : Nat := 1

/-- `FCS_MIN`: least FCS length in bytes. -/
def fcsMin : Nat := 1

/-- The longest FCS operand, `f <= 2` (spec/30_encoding.md R83). -/
def fcsMax : Nat := 2

/-- `MIN_FRAME = HEADER_LEN + FCS_MIN + TRAILER_LEN`. -/
def minFrame : Nat := headerLen + fcsMin + trailerLen

/-- `FCS_SPLIT`: a serialized frame longer than this has a 2-byte FCS. -/
def fcsSplit : Nat := 20

/-- `MAX_ATTEMPTS`: bound on sense/backoff cycles per frame. -/
def maxAttempts : Nat := 16

/-- `BACKOFF_CAP`: cap of the backoff exponent. -/
def backoffCap : Nat := 10

/-- `P_BUSY`, a law of the environment; no rule of the spec depends on it (R8), and nothing here reads it. -/
def pBusy : Rat := 3 / 4

/-- `P_COLLISION`, a law of the environment that no rule depends on (R8). -/
def pCollision : Rat := 1 / 4

/-- `P_ONE_FLIP`, a law of the environment that no rule depends on (R8). -/
def pOneFlip : Rat := 3 / 4

/-! ### The parameters of R7 that follow from the constants. -/

/-- `FRM_CAP`: longest serialized frame, `3 + 64 + 2 + 1`. -/
def frmCap : Nat := headerLen + maxPayload + fcsMax + trailerLen

/-- `STF_CAP`: longest stuffed frame, `2 + 2 * 68`. -/
def stfCap : Nat := 2 + 2 * (frmCap - 2)

/-- `MSG_CAP`: longest message `SEG.SEGMENT` takes, `255 * 64`. -/
def msgCap : Nat := 255 * maxPayload

/-- The largest value of a 16-bit length field (spec/30_encoding.md R83). -/
def len16Max : Nat := 65535

/-! ### Free values: no body, so no proof can see what they are. -/

/-- The environment's answer to the `n`-th draw that the state's list of answers does not give
(spec/00_scope.md R15: "chosen by the environment ... under no law that a rule may rely on").
DESIGN CHOICE, safe: log entry 3. -/
opaque freeDraw : Nat → Nat

/-- One less than `SLOT_TIME`, in a unit the spec does not name (R7: "OPEN, a positive duration"). Log entry 6. -/
opaque slotTimePred : Nat

/-- `SLOT_TIME`, positive. No rule of the machine reads it (spec/70_reset_and_hazards.md R311). -/
def slotTime : Nat := slotTimePred + 1

/-- The wait that a countdown of `slots` stands for (spec/45_mac.md R227: `delay_slots * slot_time`). -/
def backoffWait (slots : Nat) : Nat := slots * slotTime

end Config

/-- `FEC_PARITY_MODE` (R7): which control bits enter the overall-parity check of `FEC.CORRECT`
(spec/42_hamming_fec.md R148). -/
inductive ParityMode where
  | received
  | recomputed
deriving DecidableEq, Repr

/-- The open parameters that an operation reads (R7); fixed when HSB is built and written by no operation
(spec/70_reset_and_hazards.md R283). -/
structure Params where
  /-- `RXBUF_CAP`: `none` is the value infinity. -/
  rxbufCap : Option Nat
  /-- `FEC_PARITY_MODE`. -/
  parityMode : ParityMode
deriving DecidableEq, Repr

namespace Params

/-- The defaults of R7: `RXBUF_CAP = 1024`, `FEC_PARITY_MODE = RECEIVED`. -/
def default : Params := { rxbufCap := some 1024, parityMode := .received }

/-- The range of `RXBUF_CAP` in R7: a natural number not less than 138, or infinity. -/
def legal (p : Params) : Bool :=
  match p.rxbufCap with
  | some cap => decide (Config.stfCap ≤ cap)
  | none => true

end Params

/-- The status of a response, by name (spec/30_encoding.md R90, spec/60_exceptions.md R251). -/
inductive Status where
  | ok
  | errIllegalOp
  | errFormat
  | errOperand
  | errFrameShort
  | errFrameFlags
  | errFrameOversize
  | errDanglingEscape
  | errMacBusy
  | errWrite
  | errRxOverflow
deriving DecidableEq, Repr

end Sys2Proof
end

