-- ==== Sys2Proof/Syntax.lean ====
section
/-! DEFINITION. The operations of HSB: one constructor per row of the opcode map, spec/30_encoding.md R86. -/

namespace Sys2Proof

/-- An operation with the operand fields its command packet carries (R83, R86). -/
inductive Instr where
  /-- `FEC.KCOUNT`, opcode `0x10`, format `B` (R141). -/
  | fecKcount (n : Byte)
  /-- `FEC.ENCODE`, opcode `0x11`, format `P` (R144). -/
  | fecEncode (payload : Bytes)
  /-- `FEC.VERIFY`, opcode `0x12`, format `PF` (R146). -/
  | fecVerify (payload fcs : Bytes)
  /-- `FEC.CORRECT`, opcode `0x13`, format `PF` (R150). -/
  | fecCorrect (payload fcs : Bytes)
  /-- `FRM.SERIALIZE`, opcode `0x20`, format `FR` (R101). -/
  | frmSerialize (total sequence : Byte) (payload fcs : Bytes)
  /-- `FRM.DESERIALIZE`, opcode `0x21`, format `S` (R104). -/
  | frmDeserialize (bytes : Bytes)
  /-- `FRM.CHECK`, opcode `0x22`, format `S` (R103). -/
  | frmCheck (bytes : Bytes)
  /-- `STF.STUFF`, opcode `0x30`, format `S` (R121). -/
  | stfStuff (frame : Bytes)
  /-- `STF.UNSTUFF`, opcode `0x31`, format `S` (R124). -/
  | stfUnstuff (stuffed : Bytes)
  /-- `SEG.SEGMENT`, opcode `0x40`, format `S` (R171). -/
  | segSegment (message : Bytes)
  /-- `RX.FIND`, opcode `0x41`, format `S` (R175). -/
  | rxFind (buffer : Bytes)
  /-- `RX.DELIVER`, opcode `0x42`, format `S` (R180). -/
  | rxDeliver (chunk : Bytes)
  /-- `INJ.INJECT`, opcode `0x50`, format `P` (R201). -/
  | injInject (payload : Bytes)
  /-- `MAC.SEND`, opcode `0x60`, format `S` (R211). -/
  | macSend (stuffed : Bytes)
  /-- `MAC.STATUS`, opcode `0x61`, format `N` (R212). -/
  | macStatus
  /-- `MAC.SET_EMU`, opcode `0x62`, format `B` (R213). -/
  | macSetEmu (a : Byte)
  /-- `MAC.STATS_RESET`, opcode `0x63`, format `N` (R214). -/
  | macStatsReset
  /-- `MAC.STATS`, opcode `0x64`, format `N` (R215). -/
  | macStats
  /-- `MAC.BKDELAY`, opcode `0x65`, format `B` (R219). -/
  | macBkdelay (attempt : Byte)
deriving DecidableEq, Repr

end Sys2Proof
end

