-- ==== Sys2Proof/WellFormed.lean ====
section
/-! DEFINITION. Two checks on an operation: whether a command packet can carry its operands (the widths of the
length fields, spec/30_encoding.md R83), and whether they are inside the ranges of R86. -/

namespace Sys2Proof.Instr

/-- The operands fit the packet's length fields (R83): `n` and `f` are one byte, `len16` is 16 bits. -/
def encodable : Instr → Bool
  | fecKcount _ => true
  | fecEncode payload => payload.length < 256
  | fecVerify payload fcs => payload.length < 256 && fcs.length < 256
  | fecCorrect payload fcs => payload.length < 256 && fcs.length < 256
  | frmSerialize _ _ payload fcs => payload.length < 256 && fcs.length < 256
  | frmDeserialize bytes => bytes.length < 65536
  | frmCheck bytes => bytes.length < 65536
  | stfStuff frame => frame.length < 65536
  | stfUnstuff stuffed => stuffed.length < 65536
  | segSegment message => message.length < 65536
  | rxFind buffer => buffer.length < 65536
  | rxDeliver chunk => chunk.length < 65536
  | injInject payload => payload.length < 256
  | macSend stuffed => stuffed.length < 65536
  | macStatus => true
  | macSetEmu _ => true
  | macStatsReset => true
  | macStats => true
  | macBkdelay _ => true

/-- The operands are inside the ranges of the opcode map (R86, R83). A packet that decodes to an operation outside
them is answered `ERR_OPERAND` (R82 step 4). -/
def wellFormed : Instr → Bool
  | fecKcount _ => true
  | fecEncode payload => payload.length ≤ 64
  | fecVerify payload fcs => payload.length ≤ 64 && fcs.length ≤ 2
  | fecCorrect payload fcs => payload.length ≤ 64 && fcs.length ≤ 2
  | frmSerialize _ _ payload fcs => payload.length ≤ 64 && 1 ≤ fcs.length && fcs.length ≤ 2
  | frmDeserialize bytes => bytes.length ≤ 65535
  | frmCheck bytes => bytes.length ≤ 65535
  | stfStuff frame => frame.length ≤ 70
  | stfUnstuff stuffed => stuffed.length ≤ 65535
  | segSegment message => message.length ≤ 16320
  | rxFind buffer => buffer.length ≤ 65535
  | rxDeliver chunk => chunk.length ≤ 65535
  | injInject payload => payload.length ≤ 64
  | macSend stuffed => 1 ≤ stuffed.length && stuffed.length ≤ 138
  | macStatus => true
  | macSetEmu a => a.toNat ≤ 1
  | macStatsReset => true
  | macStats => true
  | macBkdelay _ => true

end Sys2Proof.Instr
end

