-- ==== Sys2Proof/Decode.lean ====
section
/-! DEFINITION. Command packets: the opcode map, the decoder (total on any bytes) and the encoder
(spec/30_encoding.md R80 to R83, R86, R87, R91), and the byte-order helpers they use (spec/20_memory.md R56). -/

namespace Sys2Proof

/-! ### Byte order (R56): big-endian. -/

/-- A 16-bit field, most significant byte first. -/
def be16 (v : Nat) : Bytes := [BitVec.ofNat 8 (v / 256), BitVec.ofNat 8 v]

/-- A 32-bit field, most significant byte first. -/
def be32 (v : Nat) : Bytes :=
  [BitVec.ofNat 8 (v / 16777216), BitVec.ofNat 8 (v / 65536), BitVec.ofNat 8 (v / 256), BitVec.ofNat 8 v]

/-- The value of a 16-bit field from its two bytes. -/
def u16 (hi lo : Byte) : Nat := hi.toNat * 256 + lo.toNat

/-- A length field of one byte. -/
def len8 (b : Bytes) : Byte := BitVec.ofNat 8 b.length

/-! ### The opcode map (R86). -/

/-- The operand formats of R83. -/
inductive Format where
  | n | b | s | p | pf | fr
deriving DecidableEq, Repr

/-- The nineteen operations by name. -/
inductive Opcode where
  | fecKcount | fecEncode | fecVerify | fecCorrect
  | frmSerialize | frmDeserialize | frmCheck
  | stfStuff | stfUnstuff
  | segSegment | rxFind | rxDeliver
  | injInject
  | macSend | macStatus | macSetEmu | macStatsReset | macStats | macBkdelay
deriving DecidableEq, Repr

/-- Column `opcode` of R86. -/
def Opcode.code : Opcode → Byte
  | .fecKcount => 0x10
  | .fecEncode => 0x11
  | .fecVerify => 0x12
  | .fecCorrect => 0x13
  | .frmSerialize => 0x20
  | .frmDeserialize => 0x21
  | .frmCheck => 0x22
  | .stfStuff => 0x30
  | .stfUnstuff => 0x31
  | .segSegment => 0x40
  | .rxFind => 0x41
  | .rxDeliver => 0x42
  | .injInject => 0x50
  | .macSend => 0x60
  | .macStatus => 0x61
  | .macSetEmu => 0x62
  | .macStatsReset => 0x63
  | .macStats => 0x64
  | .macBkdelay => 0x65

/-- Column `format` of R86. -/
def Opcode.format : Opcode → Format
  | .fecKcount => .b
  | .fecEncode => .p
  | .fecVerify => .pf
  | .fecCorrect => .pf
  | .frmSerialize => .fr
  | .frmDeserialize => .s
  | .frmCheck => .s
  | .stfStuff => .s
  | .stfUnstuff => .s
  | .segSegment => .s
  | .rxFind => .s
  | .rxDeliver => .s
  | .injInject => .p
  | .macSend => .s
  | .macStatus => .n
  | .macSetEmu => .b
  | .macStatsReset => .n
  | .macStats => .n
  | .macBkdelay => .b

/-- The rows of R86, in its order. -/
def Opcode.all : List Opcode :=
  [.fecKcount, .fecEncode, .fecVerify, .fecCorrect, .frmSerialize, .frmDeserialize, .frmCheck, .stfStuff,
    .stfUnstuff, .segSegment, .rxFind, .rxDeliver, .injInject, .macSend, .macStatus, .macSetEmu, .macStatsReset,
    .macStats, .macBkdelay]

/-- R82 step 2: look up the first byte of a packet; `none` for each of the 237 illegal values (R87). -/
def Opcode.ofByte (b : Byte) : Option Opcode := Opcode.all.find? (fun o => o.code == b)

/-- The row of R86 an operation belongs to. -/
def Instr.opcode : Instr → Opcode
  | .fecKcount _ => .fecKcount
  | .fecEncode _ => .fecEncode
  | .fecVerify _ _ => .fecVerify
  | .fecCorrect _ _ => .fecCorrect
  | .frmSerialize _ _ _ _ => .frmSerialize
  | .frmDeserialize _ => .frmDeserialize
  | .frmCheck _ => .frmCheck
  | .stfStuff _ => .stfStuff
  | .stfUnstuff _ => .stfUnstuff
  | .segSegment _ => .segSegment
  | .rxFind _ => .rxFind
  | .rxDeliver _ => .rxDeliver
  | .injInject _ => .injInject
  | .macSend _ => .macSend
  | .macStatus => .macStatus
  | .macSetEmu _ => .macSetEmu
  | .macStatsReset => .macStatsReset
  | .macStats => .macStats
  | .macBkdelay _ => .macBkdelay

/-! ### The decoder (R82 steps 1 to 3, formats of R83). Each parser answers `none` when the packet is shorter or
longer than the format and its own length fields say. -/

/-- Format `N`: nothing. -/
def parseN (op : Instr) : Bytes → Option Instr
  | [] => some op
  | _ :: _ => none

/-- Format `B`: one byte. -/
def parseB (op : Byte → Instr) : Bytes → Option Instr
  | [a] => some (op a)
  | _ => none

/-- Format `S`: `len16`, then that many bytes. -/
def parseS (op : Bytes → Instr) : Bytes → Option Instr
  | hi :: lo :: data => if data.length = u16 hi lo then some (op data) else none
  | _ => none

/-- Format `P`: `n`, then that many bytes. -/
def parseP (op : Bytes → Instr) : Bytes → Option Instr
  | n :: payload => if payload.length = n.toNat then some (op payload) else none
  | [] => none

/-- Format `PF`: `n`, `payload`, `f`, `fcs`. -/
def parsePF (op : Bytes → Bytes → Instr) : Bytes → Option Instr
  | n :: rest =>
    match rest.drop n.toNat with
    | f :: fcs => if fcs.length = f.toNat then some (op (rest.take n.toNat) fcs) else none
    | [] => none
  | [] => none

/-- Format `FR`: `total`, `sequence`, then as `PF`. -/
def parseFR (op : Byte → Byte → Bytes → Bytes → Instr) : Bytes → Option Instr
  | total :: sequence :: rest => parsePF (op total sequence) rest
  | _ => none

/-- R82 step 3: parse the bytes after the opcode by the operation's format. -/
def parseOperands : Opcode → Bytes → Option Instr
  | .fecKcount, c => parseB .fecKcount c
  | .fecEncode, c => parseP .fecEncode c
  | .fecVerify, c => parsePF .fecVerify c
  | .fecCorrect, c => parsePF .fecCorrect c
  | .frmSerialize, c => parseFR .frmSerialize c
  | .frmDeserialize, c => parseS .frmDeserialize c
  | .frmCheck, c => parseS .frmCheck c
  | .stfStuff, c => parseS .stfStuff c
  | .stfUnstuff, c => parseS .stfUnstuff c
  | .segSegment, c => parseS .segSegment c
  | .rxFind, c => parseS .rxFind c
  | .rxDeliver, c => parseS .rxDeliver c
  | .injInject, c => parseP .injInject c
  | .macSend, c => parseS .macSend c
  | .macStatus, c => parseN .macStatus c
  | .macSetEmu, c => parseB .macSetEmu c
  | .macStatsReset, c => parseN .macStatsReset c
  | .macStats, c => parseN .macStats c
  | .macBkdelay, c => parseB .macBkdelay c

/-- Decoding a command packet, R82 steps 1 to 3: the empty packet, then the opcode, then the length. Step 4, the
operand ranges, is the meaning's own first test (DEDUCED, log entry 9) and is added by `decodeCommand`. -/
def decode : Bytes → Except Status Instr
  | [] => .error .errFormat
  | b :: rest =>
    match Opcode.ofByte b with
    | none => .error .errIllegalOp
    | some o =>
      match parseOperands o rest with
      | none => .error .errFormat
      | some i => .ok i

/-- R82 steps 1 to 4: "every byte sequence is either one operation with its operands or one of the three errors". -/
def decodeCommand (c : Bytes) : Except Status Instr :=
  match decode c with
  | .error e => .error e
  | .ok i => if i.wellFormed then .ok i else .error .errOperand

/-! ### The encoder (R81, R83). -/

/-- Format `S`. -/
def encodeS (data : Bytes) : Bytes := be16 data.length ++ data

/-- Format `P`. -/
def encodeP (payload : Bytes) : Bytes := len8 payload :: payload

/-- Format `PF`. -/
def encodePF (payload fcs : Bytes) : Bytes := encodeP payload ++ encodeP fcs

/-- The operand bytes of a command packet (R83). -/
def Instr.operandBytes : Instr → Bytes
  | .fecKcount n => [n]
  | .fecEncode payload => encodeP payload
  | .fecVerify payload fcs => encodePF payload fcs
  | .fecCorrect payload fcs => encodePF payload fcs
  | .frmSerialize total sequence payload fcs => total :: sequence :: encodePF payload fcs
  | .frmDeserialize bytes => encodeS bytes
  | .frmCheck bytes => encodeS bytes
  | .stfStuff frame => encodeS frame
  | .stfUnstuff stuffed => encodeS stuffed
  | .segSegment message => encodeS message
  | .rxFind buffer => encodeS buffer
  | .rxDeliver chunk => encodeS chunk
  | .injInject payload => encodeP payload
  | .macSend stuffed => encodeS stuffed
  | .macStatus => []
  | .macSetEmu a => [a]
  | .macStatsReset => []
  | .macStats => []
  | .macBkdelay attempt => [attempt]

/-- The command packet `[opcode] ++ operands` of an operation (R81). -/
def encode (i : Instr) : Bytes := i.opcode.code :: i.operandBytes

/-! ### A packet from the bits the opcode table numbers. -/

/-- Byte `k` of the packet whose bits below `nbits` are `w` (bit 0 is the least significant bit of the first byte)
and whose further bits are 0. -/
def wordByte (nbits w k : Nat) : Byte := BitVec.ofNat 8 ((w % 2 ^ nbits) >>> (8 * k))

/-- The length that a packet with these bytes has by its format and its own length fields (R83). -/
def packetLength (byteAt : Nat → Byte) : Nat :=
  match Opcode.ofByte (byteAt 0) with
  | none => 1
  | some o =>
    match o.format with
    | .n => 1
    | .b => 2
    | .s => 3 + u16 (byteAt 1) (byteAt 2)
    | .p => 2 + (byteAt 1).toNat
    | .pf => 3 + (byteAt 1).toNat + (byteAt (2 + (byteAt 1).toNat)).toNat
    | .fr => 5 + (byteAt 3).toNat + (byteAt (4 + (byteAt 3).toNat)).toNat

/-- The command packet whose bits are `w`: at least the `nbits` the table gives the row, and as long as its own
length fields say (log entry 7). -/
def packetOfWord (nbits w : Nat) : Bytes :=
  (List.range (max ((nbits + 7) / 8) (packetLength (wordByte nbits w)))).map (wordByte nbits w)

/-- The instruction the decoder reads from an instruction whose bits are `w`. -/
def decodeTableWord (nbits w : Nat) : Option Instr :=
  match decode (packetOfWord nbits w) with
  | .ok i => some i
  | .error _ => none

end Sys2Proof
end

