-- ==== Sys2Proof/Machine/State.lean ====
section
/-! DEFINITION. The state of HSB: the nine fields of spec/10_state.md R22, the two traces of spec/00_scope.md R14 and
R16, the last response packet, the open parameters of R7, and the environment's inputs held as plain data; the
reasons a step can stop; and the state after reset. -/

namespace Sys2Proof.Machine

/-- The seven states of the CSMA/CD machine (R24). -/
inductive MacState where
  | idle
  | sense
  | transmit
  | success
  | collided
  | backoff
  | giveUp
deriving DecidableEq, Repr

/-- The outcomes of `FEC.CORRECT`, KBCN's -1, 0, 1, 2 (spec/42_hamming_fec.md R150, spec/30_encoding.md R92). -/
inductive FecOutcome where
  /-- -1: the payload is empty. -/
  | emptyPayload
  /-- 0: no error. -/
  | noError
  /-- 1: one payload bit was inverted. -/
  | corrected
  /-- 2: detected, not correctable. -/
  | uncorrectable
deriving DecidableEq, Repr

/-- The record of a delivered frame (spec/30_encoding.md R89, spec/43_segment_reassemble.md R181). -/
structure FrameRecord where
  total : Byte
  sequence : Byte
  outcome : FecOutcome
  /-- The Fault Injector's `error_count`, 0 when it was not applied. -/
  injected : Nat
  /-- `sequence = total`. -/
  last : Bool
  /-- The payload after correction. -/
  payload : Bytes
deriving DecidableEq, Repr

/-- Why an attempt was aborted (spec/45_mac.md R222). -/
inductive CollisionCause where
  | trial
  | write
deriving DecidableEq, Repr

/-- The events HSB emits (spec/60_exceptions.md R256). -/
inductive Event where
  | jamSeen (runs : Nat)
  | resync
  | rxOverflow
  | frameDropped (reason : Status)
  | frameDelivered (record : FrameRecord)
  | mediumBusy (attempt : BitVec 5)
  | collision (txIdx : BitVec 8) (cause : CollisionCause)
  | jamSent (ok : Bool)
  | txDone (result : Bool)
deriving DecidableEq, Repr

/-- One atomic transition that an agent is to take (spec/60_exceptions.md R270, spec/20_memory.md R59). -/
inductive Turn where
  /-- The host presents a command packet (spec/30_encoding.md R80). -/
  | host (packet : Bytes)
  /-- The channel delivers a chunk: the command `RX.DELIVER` issued by the channel agent (R80, R180). -/
  | channel (chunk : Bytes)
  /-- The MAC sequencer takes its enabled step (spec/45_mac.md R220). -/
  | sequencer
  /-- The slot timer ticks (R227). -/
  | tick
  /-- `@RESET` (spec/70_reset_and_hazards.md R280). -/
  | reset
deriving DecidableEq, Repr

/-- The state of HSB. Plain data. -/
structure State where
  /-- `st.rxb`, the receive buffer (R23). -/
  rxb : Bytes
  /-- `st.mac_state` (R24). -/
  macState : MacState
  /-- `st.attempt`, 5 bits (R25). -/
  attempt : BitVec 5
  /-- `st.tx_idx`, 8 bits (R26). -/
  txIdx : BitVec 8
  /-- `st.backoff_cnt`, 10 bits (R27). -/
  backoffCnt : BitVec 10
  /-- `st.txf`, the latched stuffed frame (R28). -/
  txf : Bytes
  /-- `st.emu_en` (R29). -/
  emuEn : Bool
  /-- `st.jam_flag` (R30). -/
  jamFlag : Bool
  /-- `st.collision_count`, 32 bits (R31). -/
  collisionCount : BitVec 32
  /-- `tx_trace`: every byte put on the channel (spec/00_scope.md R14); an observation, read by no rule. -/
  txTrace : Bytes
  /-- `ev_trace`: every event emitted (R16); an observation, read by no rule. -/
  evTrace : List Event
  /-- The response packet of the last command (spec/30_encoding.md R84), transient for HSB (R20): no rule reads it.
  Log entry 8. -/
  response : Bytes
  /-- The open parameters (R7), written by no operation (spec/70_reset_and_hazards.md R283). Log entry 5. -/
  params : Params
  /-- MODEL's own: the turns the agents are to take, first first. Any list is an interleaving of R61. Log entry 1. -/
  sched : List Turn
  /-- MODEL's own: the environment's answers to the coming draws (R15, R33). Log entry 3. -/
  draws : List Nat
  /-- MODEL's own: how many draws the free value has answered. Log entry 3. -/
  drawCnt : Nat
deriving DecidableEq, Repr

/-- Why a step stops. -/
inductive Fault where
  /-- Raised by a TRANSMIT step whose `st.tx_idx` is not below `len(st.txf)`: spec/10_state.md R36 (4) says that no
  state reachable from reset is so, and the spec gives the step no byte to write there. Safe (log entry 10). -/
  | txIndexOutOfRange
deriving DecidableEq, Repr

/-- Why an instruction has no meaning. -/
inductive Refusal where
  /-- Raised by `exec` for an instruction the model gives no meaning yet. Safe. No arm raises it now. -/
  | notModelled (mnemonic : String)
deriving DecidableEq, Repr

/-- The machine right after reset, at the first reset of a run: the nine fields as spec/10_state.md R37 has them, both
traces empty (spec/70_reset_and_hazards.md R281), the parameters at the defaults of R7, no turn scheduled, no draw
answered. -/
def State.reset : State where
  rxb := []
  macState := .idle
  attempt := 0
  txIdx := 0
  backoffCnt := 0
  txf := []
  emuEn := false
  jamFlag := false
  collisionCount := 0
  txTrace := []
  evTrace := []
  response := []
  params := Params.default
  sched := []
  draws := []
  drawCnt := 0

end Sys2Proof.Machine
end

