-- ==== Sys2Proof/Machine/Operands.lean ====
section
/-! DEFINITION. The fields of command and response packets: the operand ranges that a meaning tests first
(spec/30_encoding.md R82 step 4, R83, R86), the codes of R24, R90 and R92, and the result layouts of R85, R88, R89. -/

namespace Sys2Proof

/-- Column `code` of R90. -/
def Status.code : Status → Byte
  | .ok => 0x00
  | .errIllegalOp => 0x01
  | .errFormat => 0x02
  | .errOperand => 0x03
  | .errFrameShort => 0x10
  | .errFrameFlags => 0x11
  | .errFrameOversize => 0x12
  | .errDanglingEscape => 0x20
  | .errMacBusy => 0x40
  | .errWrite => 0x41
  | .errRxOverflow => 0x50

end Sys2Proof

namespace Sys2Proof.Machine

/-! ### Slices (spec/00_scope.md R11). -/

/-- `b[i:j]`: the bytes of indices `i` up to but not including `j`, empty when `i >= j`. -/
def slice (b : Bytes) (i j : Nat) : Bytes := (b.drop i).take (j - i)

/-! ### Operand ranges (R83, R86). -/

/-- `n <= 64`. -/
def payloadInRange (payload : Bytes) : Bool := payload.length ≤ Config.maxPayload

/-- `f <= 2`. -/
def fcsInRange (fcs : Bytes) : Bool := fcs.length ≤ Config.fcsMax

/-- `1 <= f <= 2`, for `FRM.SERIALIZE`. -/
def serializeFcsInRange (fcs : Bytes) : Bool := Config.fcsMin ≤ fcs.length && fcs.length ≤ Config.fcsMax

/-- "any `len16`": what a 16-bit length field can say. -/
def anyLen16 (data : Bytes) : Bool := data.length ≤ Config.len16Max

/-- `len16 <= 70`, for `STF.STUFF`. -/
def frameInRange (frame : Bytes) : Bool := frame.length ≤ Config.frmCap

/-- `len16 <= 16320`, for `SEG.SEGMENT`. -/
def messageInRange (message : Bytes) : Bool := message.length ≤ Config.msgCap

/-- `1 <= len16 <= 138`, for `MAC.SEND`. -/
def stuffedInRange (stuffed : Bytes) : Bool := 1 ≤ stuffed.length && stuffed.length ≤ Config.stfCap

/-- `a` is 0 or 1, for `MAC.SET_EMU`. -/
def flagInRange (a : Byte) : Bool := a.toNat ≤ 1

/-! ### Codes. -/

/-- The code of a state of the MAC (spec/10_state.md R24). -/
def MacState.code : MacState → Byte
  | .idle => 0
  | .sense => 1
  | .transmit => 2
  | .success => 3
  | .collided => 4
  | .backoff => 5
  | .giveUp => 6

/-- KBCN's outcome as an integer (spec/42_hamming_fec.md R150). -/
def FecOutcome.value : FecOutcome → Int
  | .emptyPayload => -1
  | .noError => 0
  | .corrected => 1
  | .uncorrectable => 2

/-- The outcome byte: 8-bit two's complement (R92). -/
def FecOutcome.code (o : FecOutcome) : Byte := BitVec.ofInt 8 o.value

/-- A one-byte flag field, 0 or 1. -/
def flagByte (b : Bool) : Byte := if b then 1 else 0

/-! ### Result layouts (R85, R88, R89). -/

/-- A byte sequence: `len16` then the bytes. -/
def seqField (b : Bytes) : Bytes := be16 b.length ++ b

/-- A payload or an FCS: its length in one byte, then the bytes. -/
def shortField (b : Bytes) : Bytes := len8 b :: b

/-- A frame as its four fields (spec/40_frame_codec.md R100: the two flags are constants). -/
structure Frame where
  total : Byte
  sequence : Byte
  payload : Bytes
  fcs : Bytes
deriving DecidableEq, Repr

/-- The record of a frame in the results of `FRM.DESERIALIZE` and `SEG.SEGMENT` (R88). -/
def Frame.fields (f : Frame) : Bytes :=
  f.total :: f.sequence :: (shortField f.payload ++ shortField f.fcs)

/-- The record of a delivered frame in the result of `RX.DELIVER` (R89). -/
def FrameRecord.fields (r : FrameRecord) : Bytes :=
  r.total :: r.sequence :: r.outcome.code :: BitVec.ofNat 8 r.injected :: flagByte r.last :: shortField r.payload

/-- What an `RX.DELIVER` returns (R89). -/
structure DeliverResult where
  jamRuns : Nat
  resync : Bool
  dropped : Nat
  frames : List FrameRecord
deriving DecidableEq, Repr

/-- The layout of R89. The three counts are 2-byte fields. -/
def DeliverResult.fields (r : DeliverResult) : Bytes :=
  be16 r.jamRuns ++ flagByte r.resync :: (be16 r.dropped ++ be16 r.frames.length ++ r.frames.flatMap FrameRecord.fields)

end Sys2Proof.Machine
end

