-- ==== Sys2Proof/Machine/Ops.lean ====
section
/-! DEFINITION. The shared operations: draws (spec/00_scope.md R15), events (R16), the channel write (R14), the response
with status `OK` and the raising of an error (spec/60_exceptions.md R255), and reset (spec/70_reset_and_hazards.md R280).
HSB has no memory to read or write (spec/20_memory.md R50) and nothing to return from an error with: "There is no handler,
so no return instruction, nothing to restore, and no nesting" (R257). -/

namespace Sys2Proof.Machine

/-- What a meaning answers. -/
abbrev Result := Host.Outcome State Fault Refusal

/-! ### Draws (R15, spec/10_state.md R33). `draw x in 0 .. bound` is `s.drawValue bound`, and the state after it is
`s.afterDraw`. Any natural number is an answer: it is read modulo the size of the range, so that every list of answers
is an environment and every value of the range can be answered. DESIGN CHOICE, safe: log entry 3. -/

/-- The value that the next draw in `0 .. bound` gets. -/
def State.drawValue (s : State) (bound : Nat) : Nat :=
  (s.draws.head?.getD (Config.freeDraw s.drawCnt)) % (bound + 1)

/-- The state after one draw: its answer is used up. -/
def State.afterDraw (s : State) : State :=
  { s with
    draws := s.draws.tail
    drawCnt := if s.draws.isEmpty then s.drawCnt + 1 else s.drawCnt }

/-- A draw in {0, 1}. -/
def State.drawBit (s : State) : Bool := s.drawValue 1 == 1

/-! ### Observations. -/

/-- `emit E` (R16). -/
def State.emit (s : State) (e : Event) : State := { s with evTrace := s.evTrace ++ [e] }

/-- The answer `ok` that the next `ChanWrite` gets from the channel (R14). -/
def State.chanOk (s : State) : Bool := s.drawBit

/-- `ChanWrite(bytes)` (R14): when the channel answers ok the bytes go on the transmit trace, otherwise nothing does.
The answer itself is `s.chanOk`. -/
def State.chanWrite (s : State) (bytes : Bytes) : State :=
  { s.afterDraw with txTrace := if s.chanOk then s.txTrace ++ bytes else s.txTrace }

/-! ### Responses (spec/30_encoding.md R84). -/

/-- `return (..)`: the response `[OK] ++ results`. -/
def State.answer (s : State) (results : Bytes) : State := { s with response := Status.ok.code :: results }

/-- `raise S`: the response is the status byte and nothing else; no state is saved, no mode changes, control goes
nowhere (R255). A rule that writes state with its error does so beside this. -/
def State.raise (s : State) (e : Status) : State := { s with response := [e.code] }

/-- R82 step 4 before step 5: outside the operand ranges the operation is not performed and the answer is
`ERR_OPERAND`. -/
def State.guarded (s : State) (inRange : Bool) (performed : Result) : Result :=
  if inRange then performed else .next (s.raise .errOperand)

/-! ### Reset. -/

/-- `@RESET` (R280): every field of R22 at its value of spec/10_state.md R37. It touches neither the channel nor the
traces (R281), and no parameter (R283). -/
def State.resetStep (s : State) : State :=
  { s with
    rxb := []
    macState := .idle
    attempt := 0
    txIdx := 0
    backoffCnt := 0
    txf := []
    emuEn := false
    jamFlag := false
    collisionCount := 0 }

end Sys2Proof.Machine
end

