-- ==== Sys2Proof/Machine/Fec.lean ====
section
/-! DEFINITION. The FEC unit (spec/42_hamming_fec.md). The data bits alone are numbered 1, 2, 3, ...; this is not the
textbook extended Hamming code and must not be replaced by it. -/

namespace Sys2Proof.Machine

/-! ### Definitions (R140 to R143). -/

/-- The bits of a byte, most significant first. -/
def byteBits (b : Byte) : List Bool :=
  [b.getLsbD 7, b.getLsbD 6, b.getLsbD 5, b.getLsbD 4, b.getLsbD 3, b.getLsbD 2, b.getLsbD 1, b.getLsbD 0]

/-- The data bits `d[1] .. d[8n]` of a payload, in order (R140). -/
def dataBits (p : Bytes) : List Bool := p.flatMap byteBits

/-- The XOR of the bits of a sequence whose positions are selected, the first bit at position `pos`. -/
def xorWhere (selected : Nat → Bool) : Nat → List Bool → Bool
  | _, [] => false
  | pos, d :: ds => (selected pos && d) ^^ xorWhere selected (pos + 1) ds

/-- The least exponent `k`, from the given one on, with `2 ^ k >= target`, found within the given number of trials. -/
def leastExponent (target : Nat) : Nat → Nat → Nat
  | 0, k => k
  | trials + 1, k => if target ≤ 2 ^ k then k else leastExponent target trials (k + 1)

/-- `k(n)`: "the least integer k >= 0 with 2^k >= 8*n + 1" (R141). -/
def controlBitCount (n : Nat) : Nat := leastExponent (8 * n + 1) (8 * n + 1) 0

/-- `F(n) = ceil((k + 1) / 8)` (R143). -/
def fcsLength (n : Nat) : Nat := (controlBitCount n + 1 + 7) / 8

/-- Control bit `c[i]`: the XOR of the data bits whose position has bit `i` set (R142). -/
def controlBit (p : Bytes) (i : Nat) : Bool := xorWhere (fun pos => pos.testBit i) 1 (dataBits p)

/-- The XOR of all data bits. -/
def dataParity (p : Bytes) : Bool := xorWhere (fun _ => true) 1 (dataBits p)

/-- The XOR of a bit sequence. -/
def xorAll (bits : List Bool) : Bool := bits.foldr xor false

/-- `c[0] .. c[k-1]` of a payload. -/
def controlBits (p : Bytes) : List Bool := (List.range (controlBitCount p.length)).map (controlBit p)

/-- The FCS bit sequence `c[0], ..., c[k-1], P` (R143). -/
def fcsBits (p : Bytes) : List Bool := controlBits p ++ [dataParity p ^^ xorAll (controlBits p)]

/-- The byte whose bit 7 is `bit 0`, ..., whose bit 0 is `bit 7`: MSB-first. -/
def byteOfBits (bit : Nat → Bool) : Byte :=
  BitVec.ofNat 8
    ((bit 0).toNat * 128 + (bit 1).toNat * 64 + (bit 2).toNat * 32 + (bit 3).toNat * 16 + (bit 4).toNat * 8
      + (bit 5).toNat * 4 + (bit 6).toNat * 2 + (bit 7).toNat)

/-- "pack the `k+1` bits into bytes, MSB-first, zero-padding the final byte" (R143). -/
def packBits (bits : List Bool) : Bytes :=
  (List.range ((bits.length + 7) / 8)).map fun j => byteOfBits fun t => bits.getD (8 * j + t) false

/-- KBCN's `calculate_control_bits(payload)` (R144). -/
def fecEncode (p : Bytes) : Bytes := packBits (fcsBits p)

/-- KBCN's `verify` (R146): the same length and the same byte at every index. -/
def fecVerify (p fcs : Bytes) : Bool := fecEncode p == fcs

/-! ### Correction (R147 to R151). -/

/-- Bit `x` of a received FCS (R147). -/
def fcsBit (fcs : Bytes) (x : Nat) : Bool := (fcs.getD (x / 8) 0).getLsbD (7 - x % 8)

/-- The received control bits `rc[0] .. rc[k-1]` (R147). -/
def receivedControlBits (p fcs : Bytes) : List Bool := (List.range (controlBitCount p.length)).map (fcsBit fcs)

/-- The mismatching control positions as powers of two (R148). -/
def syndrome (p fcs : Bytes) : Nat :=
  ((List.range (controlBitCount p.length)).map fun i => (controlBit p i ^^ fcsBit fcs i).toNat * 2 ^ i).sum

/-- `pmis` (R148): the overall parity, over the control bits that the mode names, against the received parity bit. -/
def parityMismatch (mode : ParityMode) (p fcs : Bytes) : Bool :=
  let s := match mode with
    | .received => receivedControlBits p fcs
    | .recomputed => controlBits p
  (dataParity p ^^ xorAll s) ^^ fcsBit fcs (controlBitCount p.length)

/-- The payload with data bit `d[pos]` inverted (R150). -/
def flipDataBit (p : Bytes) (pos : Nat) : Bytes :=
  p.modify ((pos - 1) / 8) fun b => b ^^^ ((0x80 : Byte) >>> ((pos - 1) % 8))

/-- The results of `FEC.CORRECT`. -/
structure FecResult where
  outcome : FecOutcome
  syndrome : Nat
  pmis : Bool
  payload : Bytes
deriving DecidableEq, Repr

/-- KBCN's `correct` (R150), the tests in its order: empty payload (R151), `verify`, the FCS length (R149), then the
syndrome and the parity. -/
def fecCorrect (mode : ParityMode) (p fcs : Bytes) : FecResult :=
  if p.length = 0 then ⟨.emptyPayload, 0, false, p⟩
  else if fecVerify p fcs then ⟨.noError, 0, false, p⟩
  else if fcs.length ≠ fcsLength p.length then ⟨.uncorrectable, 0, false, p⟩
  else
    let syn := syndrome p fcs
    let pmis := parityMismatch mode p fcs
    if syn = 0 ∧ pmis = true then ⟨.uncorrectable, syn, pmis, p⟩
    else if 1 ≤ syn ∧ syn ≤ 8 * p.length ∧ pmis = true then ⟨.corrected, syn, pmis, flipDataBit p syn⟩
    else ⟨.uncorrectable, syn, pmis, p⟩

/-- The results of `FEC.CORRECT` in a response (spec/30_encoding.md R88). -/
def FecResult.fields (r : FecResult) : Bytes :=
  r.outcome.code :: (be16 r.syndrome ++ flagByte r.pmis :: shortField r.payload)

/-! ### The four operations. -/

/-- `FEC.KCOUNT n => k` (R141). -/
def execFecKcount (n : Byte) (s : State) : Result :=
  .next (s.answer [BitVec.ofNat 8 (controlBitCount n.toNat)])

/-- `FEC.ENCODE payload => fcs` (R144). -/
def execFecEncode (payload : Bytes) (s : State) : Result :=
  s.guarded (payloadInRange payload) (.next (s.answer (shortField (fecEncode payload))))

/-- `FEC.VERIFY payload, fcs => match` (R146). -/
def execFecVerify (payload fcs : Bytes) (s : State) : Result :=
  s.guarded (payloadInRange payload && fcsInRange fcs) (.next (s.answer [flagByte (fecVerify payload fcs)]))

/-- `FEC.CORRECT payload, fcs => outcome, syndrome, pmis, payload'` (R150): every outcome has status `OK` (R252). -/
def execFecCorrect (payload fcs : Bytes) (s : State) : Result :=
  s.guarded (payloadInRange payload && fcsInRange fcs)
    (.next (s.answer (fecCorrect s.params.parityMode payload fcs).fields))

end Sys2Proof.Machine
end

