-- ==== Sys2Proof/Machine/Frm.lean ====
section
/-! DEFINITION. The Frame Codec, FRM (spec/40_frame_codec.md). -/

namespace Sys2Proof.Machine

/-- `[0x0B, total, sequence] ++ payload ++ fcs ++ [0x0C]` (R101). -/
def serialize (f : Frame) : Bytes :=
  [Config.startFlag, f.total, f.sequence] ++ f.payload ++ f.fcs ++ [Config.endFlag]

/-- The structural validity check (R103). -/
def frmCheck (bytes : Bytes) : Bool :=
  decide (Config.minFrame ≤ bytes.length) && bytes.head? == some Config.startFlag
    && bytes.getLast? == some Config.endFlag

/-- The FCS length that the split rule gives a serialized frame of length `len` (R104, spec/30_encoding.md R72). -/
def splitFcsLength (len : Nat) : Nat := if Config.fcsSplit < len then 2 else 1

/-- `deserialize` (R104): short, flags, oversize, in this order (R105, R107); then the split. -/
def deserialize (bytes : Bytes) : Except Status Frame :=
  if bytes.length < Config.minFrame then .error .errFrameShort
  else if bytes.head? ≠ some Config.startFlag ∨ bytes.getLast? ≠ some Config.endFlag then .error .errFrameFlags
  else
    let n := bytes.length - 4 - splitFcsLength bytes.length
    if Config.maxPayload < n then .error .errFrameOversize
    else .ok
      { total := bytes.getD 1 0
        sequence := bytes.getD 2 0
        payload := slice bytes 3 (3 + n)
        fcs := slice bytes (3 + n) (bytes.length - 1) }

/-- `FRM.SERIALIZE total, sequence, payload, fcs => frame` (R101). -/
def execFrmSerialize (total sequence : Byte) (payload fcs : Bytes) (s : State) : Result :=
  s.guarded (payloadInRange payload && serializeFcsInRange fcs)
    (.next (s.answer (seqField (serialize ⟨total, sequence, payload, fcs⟩))))

/-- `FRM.DESERIALIZE bytes => total, sequence, payload, fcs` (R104). -/
def execFrmDeserialize (bytes : Bytes) (s : State) : Result :=
  s.guarded (anyLen16 bytes)
    (match deserialize bytes with
      | .ok f => .next (s.answer f.fields)
      | .error e => .next (s.raise e))

/-- `FRM.CHECK bytes => valid` (R103). -/
def execFrmCheck (bytes : Bytes) (s : State) : Result :=
  s.guarded (anyLen16 bytes) (.next (s.answer [flagByte (frmCheck bytes)]))

end Sys2Proof.Machine
end

