-- ==== Sys2Proof/Machine/Inj.lean ====
section
/-! DEFINITION. The Fault Injector, INJ (spec/44_fault_injector.md). -/

namespace Sys2Proof.Machine

/-- What the injector leaves: the payload, the number of flips made, and the state after its draws. -/
structure Injection where
  payload : Bytes
  errorCount : Nat
  state : State
deriving DecidableEq, Repr

/-- `p[byte_i] xor (1 << bit_i)`: bit index 0 is the least significant bit (R202). -/
def flipBit (p : Bytes) (byteIndex bitIndex : Nat) : Bytes :=
  p.modify byteIndex fun b => b ^^^ ((1 : Byte) <<< bitIndex)

/-- One flip (R201): draw `byte_i` in `0 .. n-1`, then `bit_i` in `0 .. 7`. -/
def flipDrawn (p : Bytes) (s : State) : Bytes :=
  flipBit p (s.drawValue (p.length - 1)) (s.afterDraw.drawValue 7)

/-- `inject` (R201): a no-op that draws nothing on the empty payload; else `two`, then one flip or two, each drawn on
its own, so that the second may undo the first. -/
def inject (p : Bytes) (s : State) : Injection :=
  if p.length = 0 then ⟨p, 0, s⟩
  else
    let s1 := s.afterDraw
    let once := flipDrawn p s1
    let s2 := s1.afterDraw.afterDraw
    if s.drawBit then ⟨flipDrawn once s2, 2, s2.afterDraw.afterDraw⟩
    else ⟨once, 1, s2⟩

/-- `INJ.INJECT payload => error_count, payload'` (R201), whatever `st.emu_en` is (R200). -/
def execInjInject (payload : Bytes) (s : State) : Result :=
  s.guarded (payloadInRange payload)
    (.next ((inject payload s).state.answer
      (BitVec.ofNat 8 (inject payload s).errorCount :: shortField (inject payload s).payload)))

end Sys2Proof.Machine
end

