-- ==== Sys2Proof/Machine/Flags.lean ====
section
/-! DEFINITION. The persistent flags and the collision counter: HSB has no condition-code register, its two flags are
`st.emu_en` and `st.jam_flag` (spec/10_state.md R32), and "no operation sets a flag as a side effect other than as rules
R30 and R31 say". -/

namespace Sys2Proof.Machine

/-- `st.emu_en <- a` (R29, spec/45_mac.md R213). -/
def State.setEmu (s : State) (a : Bool) : State := { s with emuEn := a }

/-- A jam signal has been sent (R30, spec/45_mac.md R224). -/
def State.setJam (s : State) : State := { s with jamFlag := true }

/-- Cleared by an accepted `MAC.SEND` in emulation mode and by `MAC.STATS_RESET` (R30). -/
def State.clearJam (s : State) : State := { s with jamFlag := false }

/-- `st.collision_count <- (st.collision_count + 1) mod 2^32` (R31). -/
def State.countCollision (s : State) : State := { s with collisionCount := s.collisionCount + 1 }

/-- `st.collision_count <- 0` (spec/45_mac.md R214). -/
def State.clearCollisions (s : State) : State := { s with collisionCount := 0 }

end Sys2Proof.Machine
end

