-- ==== Sys2Proof/Machine/Mac.lean ====
section
/-! DEFINITION. The Medium Access Controller, MAC (spec/45_mac.md): its six operations, the steps of its sequencer and
the slot tick. -/

namespace Sys2Proof.Machine

/-- The MAC is busy in `SENSE`, `TRANSMIT`, `COLLIDED`, `BACKOFF` and quiet in the other states (spec/10_state.md R24). -/
def MacState.busy : MacState → Bool
  | .idle => false
  | .sense => true
  | .transmit => true
  | .success => false
  | .collided => true
  | .backoff => true
  | .giveUp => false

/-- `bmax(a) = 2^min(a, 10) - 1` (R218). -/
def bmax (a : Nat) : Nat := 2 ^ min a Config.backoffCap - 1

/-- The jam signal: `JAM_LEN` bytes `JAM_BYTE` (spec/30_encoding.md R75). -/
def jamSignal : Bytes := List.replicate Config.jamLen Config.jamByte

/-! ### Host operations (R211 to R216, R219). -/

/-- An accepted `MAC.SEND` in emulation mode latches the frame and starts the machine (R211). -/
def State.latch (s : State) (w : Bytes) : State :=
  { s.clearJam with txf := w, attempt := 0, txIdx := 0, backoffCnt := 0, macState := .sense }

/-- Bypass mode (R216): one `ChanWrite` of the whole frame, reported by `TxDone(ok)`; no field of the MAC is written. -/
def State.sendDirect (s : State) (w : Bytes) : State := (s.chanWrite w).emit (.txDone s.chanOk)

/-- `MAC.SEND stuffed => (nothing)` (R211): busy first, then bypass, then latch. -/
def execMacSend (stuffed : Bytes) (s : State) : Result :=
  s.guarded (stuffedInRange stuffed)
    (if s.macState.busy then .next (s.raise .errMacBusy)
    else if s.emuEn then .next ((s.latch stuffed).answer [])
    else if s.chanOk then .next ((s.sendDirect stuffed).answer [])
    else .next ((s.sendDirect stuffed).raise .errWrite))

/-- `MAC.STATUS => mac_state, attempt, tx_idx, backoff_cnt` (R212). -/
def execMacStatus (s : State) : Result :=
  .next (s.answer
    (s.macState.code :: BitVec.ofNat 8 s.attempt.toNat :: BitVec.ofNat 8 s.txIdx.toNat :: be16 s.backoffCnt.toNat))

/-- `MAC.SET_EMU a => (nothing)` (R213). -/
def execMacSetEmu (a : Byte) (s : State) : Result :=
  s.guarded (flagInRange a) (.next ((s.setEmu (a == 1)).answer []))

/-- `MAC.STATS_RESET => (nothing)` (R214). -/
def execMacStatsReset (s : State) : Result := .next (s.clearCollisions.clearJam.answer [])

/-- `MAC.STATS => collision_count, jam_flag, emu_en` (R215). -/
def execMacStats (s : State) : Result :=
  .next (s.answer (be32 s.collisionCount.toNat ++ [flagByte s.jamFlag, flagByte s.emuEn]))

/-- `MAC.BKDELAY attempt => delay` (R219): the draw `r` in `0 .. bmax(attempt)`. -/
def execMacBkdelay (attempt : Byte) (s : State) : Result :=
  .next (s.afterDraw.answer (be16 (s.drawValue (bmax attempt.toNat))))

/-! ### The sequencer's steps (R220 to R225). -/

/-- Entry into `BACKOFF` (R221, R224, R228): draw `r` in `0 .. bmax(st.attempt)` and load the countdown. -/
def State.enterBackoff (s : State) : State :=
  { s.afterDraw with
    backoffCnt := BitVec.ofNat 10 (s.drawValue (bmax s.attempt.toNat))
    macState := .backoff }

/-- The `SENSE` step (R221). -/
def senseStep (s : State) : State :=
  if s.attempt.toNat = Config.maxAttempts then State.emit { s with macState := .giveUp } (.txDone false)
  else if s.drawBit then s.afterDraw.enterBackoff.emit (.mediumBusy s.attempt)
  else { s.afterDraw with txIdx := 0, macState := .transmit }

/-- The attempt is aborted before byte `tx_idx` (R222). -/
def State.collide (s : State) (cause : CollisionCause) : State :=
  State.emit { s with macState := .collided } (.collision s.txIdx cause)

/-- Byte `tx_idx` is on the channel: go on to the next, or to `SUCCESS` after the last (R222). -/
def State.byteWritten (s : State) : State :=
  if (s.txIdx + 1).toNat = s.txf.length then
    State.emit { s with txIdx := s.txIdx + 1, macState := .success } (.txDone true)
  else { s with txIdx := s.txIdx + 1 }

/-- The `TRANSMIT` step (R222), one per byte: the collision trial first; then the write of the byte, whose failure is
treated as a collision. -/
def transmitStep (s : State) : Result :=
  if s.drawBit then .next (s.afterDraw.collide .trial)
  else
    match s.txf[s.txIdx.toNat]? with
    | none => .fault .txIndexOutOfRange
    | some b =>
      if s.afterDraw.chanOk then .next (s.afterDraw.chanWrite [b]).byteWritten
      else .next ((s.afterDraw.chanWrite [b]).collide .write)

/-- The `COLLIDED` step (R224): the jam signal, whose answer is only reported; the count; the flag; the backoff. -/
def collidedStep (s : State) : State :=
  (s.chanWrite jamSignal).countCollision.setJam.enterBackoff.emit (.jamSent s.chanOk)

/-- The backoff-expiry step (R225). -/
def expireStep (s : State) : State := { s with attempt := s.attempt + 1, macState := .sense }

/-- Whether the sequencer has an enabled step (R220). -/
def State.sequencerEnabled (s : State) : Bool :=
  match s.macState with
  | .sense => true
  | .transmit => true
  | .collided => true
  | .backoff => s.backoffCnt == 0
  | .idle => false
  | .success => false
  | .giveUp => false

/-- The sequencer's turn: its one enabled step (R220); where none is enabled, nothing happens (log entry 11). -/
def sequencerStep (s : State) : Result :=
  match s.macState with
  | .sense => .next (senseStep s)
  | .transmit => transmitStep s
  | .collided => .next (collidedStep s)
  | .backoff => if s.backoffCnt = 0 then .next (expireStep s) else .next s
  | .idle => .next s
  | .success => .next s
  | .giveUp => .next s

/-! ### The slot tick (R227). -/

/-- One slot off the countdown while it is above 0 in `BACKOFF`; in every other state, and at 0, no effect. -/
def slotTick (s : State) : State :=
  if s.macState = .backoff ∧ s.backoffCnt ≠ 0 then { s with backoffCnt := s.backoffCnt - 1 } else s

end Sys2Proof.Machine
end

