-- ==== Sys2Proof/Machine/Stf.lean ====
section
/-! DEFINITION. The Byte Stuffer, STF (spec/41_byte_stuffer.md). -/

namespace Sys2Proof.Machine

/-- The escaped values are exactly `{0x0B, 0x7D}` (R120). -/
def escaped (b : Byte) : Bool := b == Config.startFlag || b == Config.esc

/-- What the bytes after byte 0 become (R121): the last one is kept verbatim, every one before it is interior. -/
def stuffRest : Bytes → Bytes
  | [] => []
  | [last] => [last]
  | b :: next :: rest =>
    if escaped b then Config.esc :: (b ^^^ Config.mask) :: stuffRest (next :: rest)
    else b :: stuffRest (next :: rest)

/-- `stuff` (R121): byte 0 is kept verbatim. Sequences shorter than 2 bytes are returned unchanged (R123). -/
def stuff : Bytes → Bytes
  | [] => []
  | first :: rest => first :: stuffRest rest

/-- What the bytes after byte 0 become again (R124); `none` is the unpaired escape of R125: an escape byte whose next
byte is the last. -/
def unstuffRest : Bytes → Option Bytes
  | [] => some []
  | [last] => some [last]
  | [b, last] => if b = Config.esc then none else some [b, last]
  | b :: next :: after :: rest =>
    if b = Config.esc then (unstuffRest (after :: rest)).map fun out => (next ^^^ Config.mask) :: out
    else (unstuffRest (next :: after :: rest)).map fun out => b :: out

/-- `unstuff` (R124, R123, R125). -/
def unstuff : Bytes → Except Status Bytes
  | [] => .ok []
  | first :: rest =>
    match unstuffRest rest with
    | some out => .ok (first :: out)
    | none => .error .errDanglingEscape

/-- `STF.STUFF frame => stuffed` (R121). -/
def execStfStuff (frame : Bytes) (s : State) : Result :=
  s.guarded (frameInRange frame) (.next (s.answer (seqField (stuff frame))))

/-- `STF.UNSTUFF stuffed => frame` (R124). The result has no bound of its own: the row `frame` of spec/10_state.md R35
("0 to 70 bytes as a result") is not applied to it, since R124 gives a result for every operand of up to 65535 bytes.
DESIGN CHOICE: log entry 22. -/
def execStfUnstuff (stuffed : Bytes) (s : State) : Result :=
  s.guarded (anyLen16 stuffed)
    (match unstuff stuffed with
      | .ok frame => .next (s.answer (seqField frame))
      | .error e => .next (s.raise e))

end Sys2Proof.Machine
end

