-- ==== Sys2Proof/Machine/Seg.lean ====
section
/-! DEFINITION. The Segmenter and the Reassembler, SEG/RX (spec/43_segment_reassemble.md). -/

namespace Sys2Proof.Machine

/-! ### SEG.SEGMENT (R171). -/

/-- `total = max(1, ceil(len / 64))`. -/
def frameCount (len : Nat) : Nat := max 1 ((len + Config.maxPayload - 1) / Config.maxPayload)

/-- The payload of frame `i`, 1-based: `message[(i-1)*64 : min(i*64, len)]`. -/
def segmentPayload (message : Bytes) (i : Nat) : Bytes :=
  slice message ((i - 1) * Config.maxPayload) (min (i * Config.maxPayload) message.length)

/-- Frame `i` of a message, its FCS computed at once. -/
def segmentFrame (message : Bytes) (i : Nat) : Frame where
  total := BitVec.ofNat 8 (frameCount message.length)
  sequence := BitVec.ofNat 8 i
  payload := segmentPayload message i
  fcs := fecEncode (segmentPayload message i)

/-- `segment`: the frames of a message, in order. -/
def segment (message : Bytes) : List Frame :=
  (List.range (frameCount message.length)).map fun j => segmentFrame message (j + 1)

/-! ### RX.FIND (R175). -/

/-- The last index of the first run of start flags. -/
def findStart (buf : Bytes) : Option Nat :=
  (buf.findIdx? fun b => b == Config.startFlag).map fun s =>
    s + ((buf.drop (s + 1)).takeWhile fun b => b == Config.startFlag).length

/-- The least index after `start` of an end flag that closes a structurally valid range. -/
def findEnd (buf : Bytes) (start : Nat) : Option Nat :=
  (List.range' (start + 1) (buf.length - (start + 1))).find? fun e =>
    buf.getD e 0 == Config.endFlag && frmCheck (slice buf start (e + 1))

/-- `find_complete_frame` with its start (R175, R176): `(start, end)`, `(0, 0)` when there is none. -/
def rxFind (buf : Bytes) : Nat × Nat :=
  match findStart buf with
  | none => (0, 0)
  | some s =>
    match findEnd buf s with
    | none => (0, 0)
    | some e => (s, e + 1)

/-! ### RX.DELIVER (R177 to R181). -/

/-- `strip_jam(chunk) -> (chunk', runs)` (R177): one pass, left to right. -/
def stripJam : Bytes → Bytes × Nat
  | a :: b :: c :: d :: rest =>
    if a = Config.jamByte ∧ b = Config.jamByte ∧ c = Config.jamByte ∧ d = Config.jamByte then
      ((stripJam rest).1, (stripJam rest).2 + 1)
    else (a :: (stripJam (b :: c :: d :: rest)).1, (stripJam (b :: c :: d :: rest)).2)
  | short => (short, 0)

/-- What becomes of an extracted frame (R181). -/
inductive FrameFate where
  | dropped (reason : Status)
  | delivered (record : FrameRecord)
deriving DecidableEq, Repr

/-- The Fault Injector in its place in the pipeline: applied when `st.emu_en = 1` (spec/44_fault_injector.md R200). -/
def receiveInjection (payload : Bytes) (s : State) : Injection :=
  if s.emuEn then inject payload s else ⟨payload, 0, s⟩

/-- The record of a deserialized frame: injection, then correction (R181). -/
def receiveFrame (f : Frame) (s : State) : FrameRecord :=
  let inj := receiveInjection f.payload s
  let fec := fecCorrect s.params.parityMode inj.payload f.fcs
  { total := f.total
    sequence := f.sequence
    outcome := fec.outcome
    injected := inj.errorCount
    last := f.sequence == f.total
    payload := fec.payload }

/-- Unstuffing, then deserialization: the two stages that can drop a frame (R181). -/
def unwrapFrame (w : Bytes) : Except Status Frame :=
  match unstuff w with
  | .error e => .error e
  | .ok u => deserialize u

/-- `process_frame(w)` (R181): its fate. -/
def processFrame (w : Bytes) (s : State) : FrameFate :=
  match unwrapFrame w with
  | .error e => .dropped e
  | .ok f => .delivered (receiveFrame f s)

/-- The state after `process_frame(w)`: the injector's draws are used up. -/
def afterFrame (w : Bytes) (s : State) : State :=
  match unwrapFrame w with
  | .error _ => s
  | .ok f => (receiveInjection f.payload s).state

/-- The event of a frame's fate (R180). -/
def FrameFate.event : FrameFate → Event
  | .dropped reason => .frameDropped reason
  | .delivered record => .frameDelivered record

/-- What a frame's fate adds to the count of dropped frames (R180). -/
def FrameFate.drops : FrameFate → Nat
  | .dropped _ => 1
  | .delivered _ => 0

/-- What a frame's fate adds to the records (R180). -/
def FrameFate.records : FrameFate → List FrameRecord
  | .dropped _ => []
  | .delivered record => [record]

/-- What the scan loop carries: the buffer, the count of dropped frames, the records, and the state. -/
structure Scan where
  buf : Bytes
  dropped : Nat
  frames : List FrameRecord
  state : State
deriving DecidableEq, Repr

/-- One turn of the loop of R180 for the range `start .. end` that was found: extract, process, count, emit. -/
def Scan.turn (c : Scan) (start stop : Nat) : Scan :=
  let w := slice c.buf start stop
  let fate := processFrame w c.state
  { buf := c.buf.drop stop
    dropped := c.dropped + fate.drops
    frames := c.frames ++ fate.records
    state := (afterFrame w c.state).emit fate.event }

/-- The scan loop of R180: until no complete frame is found. Each turn takes at least 5 bytes off the buffer, so a
bound of the buffer's length on the number of turns is never met. -/
def Scan.run : Nat → Scan → Scan
  | 0, c => c
  | turns + 1, c => if (rxFind c.buf).2 = 0 then c else Scan.run turns (c.turn (rxFind c.buf).1 (rxFind c.buf).2)

/-- The resynchronisation test (R178), on the stripped chunk. -/
def resyncs (buf chunk : Bytes) : Bool := chunk.head? == some Config.startFlag && !buf.isEmpty

/-- What the resynchronisation test leaves of the buffer (R178). -/
def keptBuffer (buf chunk : Bytes) : Bytes := if resyncs buf chunk then [] else buf

/-- "longer than `RXBUF_CAP`" (R179); never with the capacity infinity. -/
def overflows (p : Params) (len : Nat) : Bool :=
  match p.rxbufCap with
  | some cap => decide (cap < len)
  | none => false

/-- The events of stripping and resynchronising (R180). -/
def State.emitDelivery (s : State) (runs : Nat) (resync : Bool) : State :=
  let s1 := if 0 < runs then s.emit (.jamSeen runs) else s
  if resync then s1.emit .resync else s1

/-- `RX.DELIVER` on a chunk already in range (R180): strip, resynchronisation test, overflow test, append, scan. -/
def deliver (chunk : Bytes) (s : State) : State :=
  let c1 := (stripJam chunk).1
  let runs := (stripJam chunk).2
  let resync := resyncs s.rxb c1
  let buf := keptBuffer s.rxb c1 ++ c1
  let s1 := s.emitDelivery runs resync
  if overflows s.params buf.length then
    (State.emit { s1 with rxb := [] } .rxOverflow).raise .errRxOverflow
  else
    let scan := Scan.run buf.length ⟨buf, 0, [], s1⟩
    State.answer { scan.state with rxb := scan.buf }
      (DeliverResult.fields { jamRuns := runs, resync := resync, dropped := scan.dropped, frames := scan.frames })

/-! ### The three operations. -/

/-- `SEG.SEGMENT message => frames` (R171). -/
def execSegSegment (message : Bytes) (s : State) : Result :=
  s.guarded (messageInRange message)
    (.next (s.answer (BitVec.ofNat 8 (segment message).length :: (segment message).flatMap Frame.fields)))

/-- `RX.FIND buffer => start, end` (R175). -/
def execRxFind (buffer : Bytes) (s : State) : Result :=
  s.guarded (anyLen16 buffer) (.next (s.answer (be16 (rxFind buffer).1 ++ be16 (rxFind buffer).2)))

/-- `RX.DELIVER chunk => jam_runs, resync, dropped, frames` (R180): enabled in every state (R184). -/
def execRxDeliver (chunk : Bytes) (s : State) : Result :=
  s.guarded (anyLen16 chunk) (.next (deliver chunk s))

end Sys2Proof.Machine
end

