-- ==== Sys2Proof/Machine/Dispatch.lean ====
section
/-! DEFINITION. One arm per operation of spec/30_encoding.md R86: a direct call of its meaning. -/

namespace Sys2Proof.Machine

def exec (i : Instr) (s : State) : Host.Outcome State Fault Refusal :=
  match i with
  | .fecKcount n => Sys2Proof.Machine.execFecKcount n s
  | .fecEncode payload => Sys2Proof.Machine.execFecEncode payload s
  | .fecVerify payload fcs => Sys2Proof.Machine.execFecVerify payload fcs s
  | .fecCorrect payload fcs => Sys2Proof.Machine.execFecCorrect payload fcs s
  | .frmSerialize total sequence payload fcs => Sys2Proof.Machine.execFrmSerialize total sequence payload fcs s
  | .frmDeserialize bytes => Sys2Proof.Machine.execFrmDeserialize bytes s
  | .frmCheck bytes => Sys2Proof.Machine.execFrmCheck bytes s
  | .stfStuff frame => Sys2Proof.Machine.execStfStuff frame s
  | .stfUnstuff stuffed => Sys2Proof.Machine.execStfUnstuff stuffed s
  | .segSegment message => Sys2Proof.Machine.execSegSegment message s
  | .rxFind buffer => Sys2Proof.Machine.execRxFind buffer s
  | .rxDeliver chunk => Sys2Proof.Machine.execRxDeliver chunk s
  | .injInject payload => Sys2Proof.Machine.execInjInject payload s
  | .macSend stuffed => Sys2Proof.Machine.execMacSend stuffed s
  | .macStatus => Sys2Proof.Machine.execMacStatus s
  | .macSetEmu a => Sys2Proof.Machine.execMacSetEmu a s
  | .macStatsReset => Sys2Proof.Machine.execMacStatsReset s
  | .macStats => Sys2Proof.Machine.execMacStats s
  | .macBkdelay attempt => Sys2Proof.Machine.execMacBkdelay attempt s

end Sys2Proof.Machine
end

