-- ==== Sys2Proof/Machine/Agents.lean ====
section
/-! DEFINITION. The agents' transitions (spec/60_exceptions.md R270): which turn is next, and what each turn does. One
turn is one atomic transition (spec/20_memory.md R59, R61). -/

namespace Sys2Proof.Machine

/-- The turn that is next: the first of `sched`. When no turn is scheduled the agents that act on their own go on, as
the fairness of spec/45_mac.md R220 asks: the sequencer where it has an enabled step, else the slot timer
(DESIGN CHOICE, log entry 2). -/
def State.nextTurn (s : State) : Turn :=
  match s.sched with
  | turn :: _ => turn
  | [] => if s.sequencerEnabled then .sequencer else .tick

/-- The state with the scheduled turn taken off. -/
def State.afterTurn (s : State) : State := { s with sched := s.sched.tail }

/-- A command packet (spec/30_encoding.md R80, R82): steps 1 to 3 answer the error, steps 4 and 5 are the operation's
meaning. -/
def runPacket (packet : Bytes) (s : State) : Result :=
  match decode packet with
  | .error e => .next (s.raise e)
  | .ok i => exec i s

/-- A delivery is the command `RX.DELIVER` issued by the channel agent (R80). -/
def runDelivery (chunk : Bytes) (s : State) : Result := runPacket (encode (.rxDeliver chunk)) s

/-- What a turn does. -/
def runTurn (turn : Turn) (s : State) : Result :=
  match turn with
  | .host packet => runPacket packet s
  | .channel chunk => runDelivery chunk s
  | .sequencer => sequencerStep s
  | .tick => .next (slotTick s)
  | .reset => .next s.resetStep

end Sys2Proof.Machine
end

