-- ==== Sys2Proof/Machine/Step.lean ====
section
/-! DEFINITION. One step of HSB: one atomic transition of one agent (spec/20_memory.md R61). -/

namespace Sys2Proof.Machine

/-- The next transition. -/
def step (s : State) : Host.Outcome State Fault Refusal := runTurn s.nextTurn s.afterTurn

/-- The state whose next turn is the host presenting the packet whose bits are `w`. HSB fetches no instruction and
stores no program (spec/10_state.md R21): a command comes from the host, so the packet goes to the head of `sched`
(log entry 7). -/
def State.withFetchWord (s : State) (nbits w : Nat) : State :=
  { s with sched := .host (packetOfWord nbits w) :: s.sched }

end Sys2Proof.Machine
end

