-- ==== Sys2Proof/Machine/HostSide.lean ====
section
/-! DEFINITION. The host's procedures that the spec writes down beside HSB: the pseudo-operations of spec/30_encoding.md
R94, the sending of a message (spec/43_segment_reassemble.md R172) with its wait, run beside HSB's own transitions, and
the reconstruction of messages from frame records (R186). They are duties of the host (spec/70_reset_and_hazards.md
R285); no step of HSB calls them. -/

namespace Sys2Proof.Machine

/-- KBCN's frame construction, the frame of `FRM.BUILD`: the FCS is computed at once (R94). -/
def buildFrame (total sequence : Byte) (payload : Bytes) : Frame := ⟨total, sequence, payload, fecEncode payload⟩

/-- A frame as it goes on the wire: serialized, then stuffed. -/
def wireFrame (f : Frame) : Bytes := stuff (serialize f)

/-- `FRM.BUILD total, seq, p` (R94). For a payload of at most 64 bytes the operands of the second operation are what the
first answers. For a longer one, which `FEC.ENCODE` refuses, the spec does not say what the rest of the sequence is; the
list goes on with operands that no operation answered. DESIGN CHOICE: log entry 21. -/
def frmBuildOps (total sequence : Byte) (payload : Bytes) : List Instr :=
  [.fecEncode payload, .frmSerialize total sequence payload (fecEncode payload)]

/-- `TX.FRAME total, seq, p` (R94). For a payload above 64 bytes the rest of the sequence after the refused operation is
the model's: DESIGN CHOICE, log entry 21. -/
def txFrameOps (total sequence : Byte) (payload : Bytes) : List Instr :=
  frmBuildOps total sequence payload ++
    [.stfStuff (serialize (buildFrame total sequence payload)), .macSend (wireFrame (buildFrame total sequence payload))]

/-! ### Sending a message (R172). -/

/-- One action of a procedure of the host. -/
inductive HostAction where
  /-- Present the command packet of the operation, once (spec/30_encoding.md R80). -/
  | issue (i : Instr)
  /-- Poll `MAC.STATUS` until it reports a quiet MAC (R94, R172; spec/70_reset_and_hazards.md R299). -/
  | awaitQuiet
deriving DecidableEq, Repr

/-- The packet that the host presents for an action. -/
def HostAction.packet : HostAction → Bytes
  | .issue i => encode i
  | .awaitQuiet => encode .macStatus

/-- What `TX.MESSAGE` does for one frame record: serialize, stuff, send, then wait until the MAC is quiet. The operands
are those that the operations before it answer. -/
def txRecordActions (f : Frame) : List HostAction :=
  [.issue (.frmSerialize f.total f.sequence f.payload f.fcs), .issue (.stfStuff (serialize f)),
    .issue (.macSend (wireFrame f)), .awaitQuiet]

/-- `TX.MESSAGE m` (R94, R172): `SEG.SEGMENT`, then each frame record in order. A frame that ends in `GIVE_UP` does
not stop the message (R172); that an error status of `MAC.SEND` does not either is a DESIGN CHOICE (log entry 21). A
message that `SEG.SEGMENT` refuses has no frame records: an error has no results (R84). -/
def txMessageActions (message : Bytes) : List HostAction :=
  .issue (.segSegment message) ::
    (if messageInRange message then (segment message).flatMap txRecordActions else [])

/-- A procedure of the host under way: what it has still to do, the log of how its waits ended (R172: "the orchestration
layer logs it and proceeds to the next frame"), and HSB. -/
structure HostRun where
  todo : List HostAction
  /-- The `mac_state` code that each finished wait read last. -/
  log : List Byte
  state : State
deriving DecidableEq, Repr

/-- The field `mac_state` of a response to `MAC.STATUS` (R88, R212), where it says that the MAC is quiet (R24). -/
def quietCode (response : Bytes) : Option Byte :=
  response[1]?.filter fun c =>
    c == MacState.idle.code || c == MacState.success.code || c == MacState.giveUp.code

/-- An action after HSB has answered it, `state` being HSB after the answer: an operation is done; a wait is done when
the answer says quiet, and else is still to do. -/
def HostAction.answered (a : HostAction) (rest : List HostAction) (log : List Byte) (state : State) : HostRun :=
  match a with
  | .issue _ => ⟨rest, log, state⟩
  | .awaitQuiet =>
    match quietCode state.response with
    | some c => ⟨rest, log ++ [c], state⟩
    | none => ⟨.awaitQuiet :: rest, log, state⟩

/-- Who moves next while a procedure runs: the procedure, or HSB on its own or for another agent, as its schedule says.
Any list of them is an interleaving of R61. Log entry 20. -/
inductive HostMove where
  | procedure
  | other
deriving DecidableEq, Repr

/-- One move: the procedure presents the packet of its first action, ahead of what is scheduled; or HSB takes the
transition that is next. -/
def HostRun.move (h : HostRun) (m : HostMove) : Host.Outcome HostRun Fault Refusal :=
  match m, h.todo with
  | .procedure, a :: rest =>
    match step { h.state with sched := .host a.packet :: h.state.sched } with
    | .next t => .next (a.answered rest h.log t)
    | .fault r => .fault r
    | .refused r => .refused r
  | .procedure, [] => .next h
  | .other, _ =>
    match step h.state with
    | .next t => .next { h with state := t }
    | .fault r => .fault r
    | .refused r => .refused r

/-- A run of a procedure beside HSB. -/
def HostRun.run : List HostMove → HostRun → Host.Outcome HostRun Fault Refusal
  | [], h => .next h
  | m :: ms, h =>
    match h.move m with
    | .next h' => HostRun.run ms h'
    | .fault r => .fault r
    | .refused r => .refused r

/-- `TX.MESSAGE m` at its start, beside HSB in state `s`. -/
def txMessage (message : Bytes) (s : State) : HostRun := ⟨txMessageActions message, [], s⟩

/-! ### Receiving. -/

/-- `RX.FRAME w` (R94): the per-frame receive pipeline without the Fault Injector. -/
def rxFrame (mode : ParityMode) (w : Bytes) : Except Status (Byte × Byte × FecResult) :=
  match unwrapFrame w with
  | .error e => .error e
  | .ok f => .ok (f.total, f.sequence, fecCorrect mode f.payload f.fcs)

/-- The host's accumulator (R186): the messages closed so far, and the one still open. -/
structure Reconstruction where
  messages : List Bytes
  pending : Bytes
deriving DecidableEq, Repr

/-- One delivered record: append its payload; `last = 1` closes the message. Nothing else is looked at (R186). -/
def Reconstruction.take (r : Reconstruction) (rec : FrameRecord) : Reconstruction :=
  if rec.last then ⟨r.messages ++ [r.pending ++ rec.payload], []⟩ else ⟨r.messages, r.pending ++ rec.payload⟩

/-- The reconstruction from records in the order of their delivery, the accumulator empty at the start. -/
def reconstruct (recs : List FrameRecord) : Reconstruction := recs.foldl Reconstruction.take ⟨[], []⟩

/-- The records of the frames delivered, in order, from an event trace. -/
def deliveredRecords (events : List Event) : List FrameRecord :=
  events.filterMap fun e =>
    match e with
    | .frameDelivered r => some r
    | _ => none

end Sys2Proof.Machine
end

