-- ==== Sys2Proof/Safety.lean ====
section
/-! DEFINITION. The terms in which claims about HSB are stated: the invariants of spec/10_state.md R36, which fields stay
the same, which errors an operation may raise (spec/60_exceptions.md R251), and readings of payloads, frames and buffers
taken from the spec's words and not from the model's functions. -/

namespace Sys2Proof.Machine

/-! ### Invariants. -/

/-- The invariants of R36 (item 2 is the type of `macState`), and what the two terminal states say (spec/45_mac.md R223,
R226). -/
structure Inv (s : State) : Prop where
  /-- Item 1. -/
  rxbFits : ∀ cap, s.params.rxbufCap = some cap → s.rxb.length ≤ cap
  /-- Item 3. -/
  attemptBound : s.attempt.toNat ≤ 16
  /-- Item 3. -/
  attemptLast : s.attempt.toNat = 16 → s.macState = .sense ∨ s.macState = .giveUp
  /-- Item 4. -/
  txIdxBound : s.txIdx.toNat ≤ s.txf.length
  /-- Item 4. -/
  txfBound : s.txf.length ≤ 138
  /-- Item 4. -/
  txIdxTransmit : s.macState = .transmit → s.txIdx.toNat < s.txf.length
  /-- Item 5. -/
  backoffBound : s.macState = .backoff → s.backoffCnt.toNat ≤ 2 ^ min s.attempt.toNat 10 - 1
  /-- Item 5. -/
  backoffZero : s.macState ≠ .backoff → s.backoffCnt = 0
  /-- Item 6. -/
  txfLatched : s.macState ≠ .idle → 1 ≤ s.txf.length
  /-- Item 7. -/
  rxbPartial : (rxFind s.rxb).2 = 0
  /-- R223. -/
  successWhole : s.macState = .success → s.txIdx.toNat = s.txf.length
  /-- R226. -/
  giveUpLast : s.macState = .giveUp → s.attempt.toNat = 16

/-! ### What stays the same. -/

/-- The fields that only the MAC and the statistics write (spec/10_state.md R38). -/
def SameMac (s t : State) : Prop :=
  t.macState = s.macState ∧ t.attempt = s.attempt ∧ t.txIdx = s.txIdx ∧ t.backoffCnt = s.backoffCnt ∧ t.txf = s.txf
    ∧ t.jamFlag = s.jamFlag ∧ t.collisionCount = s.collisionCount

/-- The nine fields of R22. -/
def SamePersistent (s t : State) : Prop := t.rxb = s.rxb ∧ t.emuEn = s.emuEn ∧ SameMac s t

/-! ### Errors (R251). -/

/-- Column `raised by` of R251, for the errors an operation can raise once its packet is decoded. -/
def mayRaise : Instr → Status → Bool
  | .fecEncode _, .errOperand => true
  | .fecVerify _ _, .errOperand => true
  | .fecCorrect _ _, .errOperand => true
  | .frmSerialize _ _ _ _, .errOperand => true
  | .injInject _, .errOperand => true
  | .stfStuff _, .errOperand => true
  | .segSegment _, .errOperand => true
  | .macSend _, .errOperand => true
  | .macSetEmu _, .errOperand => true
  | .frmDeserialize _, .errFrameShort => true
  | .frmDeserialize _, .errFrameFlags => true
  | .frmDeserialize _, .errFrameOversize => true
  | .stfUnstuff _, .errDanglingEscape => true
  | .macSend _, .errMacBusy => true
  | .macSend _, .errWrite => true
  | .rxDeliver _, .errRxOverflow => true
  | _, _ => false

/-! ### Readings of a payload and an FCS. -/

/-- `d[pos] = bit(p[(pos - 1) div 8], 7 - ((pos - 1) mod 8))` (spec/00_scope.md R12). -/
def dataBit (p : Bytes) (pos : Nat) : Bool := (p.getD ((pos - 1) / 8) 0).getLsbD (7 - (pos - 1) % 8)

/-- Bit `x` of an FCS as packed MSB-first (spec/42_hamming_fec.md R143, R147). -/
def wireBit (fcs : Bytes) (x : Nat) : Bool := (fcs.getD (x / 8) 0).getLsbD (7 - x % 8)

/-- How many data positions of a payload hold a 1 and are selected. -/
def countOnes (p : Bytes) (selected : Nat → Bool) : Nat :=
  (List.range (8 * p.length)).countP fun j => selected (j + 1) && dataBit p (j + 1)

/-- `k(n)` as the base-2 logarithm, rounded up, of `8n + 1` (R141). -/
def kOf (n : Nat) : Nat := Nat.clog 2 (8 * n + 1)

/-- The byte sequence with bit `x` inverted, bits counted from 0, MSB-first per byte. -/
def invertBit (b : Bytes) (x : Nat) : Bytes := b.modify (x / 8) fun v => v ^^^ ((0x80 : Byte) >>> (x % 8))

/-! ### Readings of a byte sequence. -/

/-- A 16-bit field of a packet, the high byte first (spec/30_encoding.md R83, R85). -/
def twoBytes (n : Nat) : Bytes := [BitVec.ofNat 8 (n / 256), BitVec.ofNat 8 n]

/-- What `STF.UNSTUFF` makes of the interior of a sequence (spec/41_byte_stuffer.md R124), read from its front; `none`
is an unpaired escape (R125). -/
inductive Unescapes : Bytes → Option Bytes → Prop
  /-- Nothing is left of the interior. -/
  | done : Unescapes [] (some [])
  /-- The last interior byte is an escape byte that is not the second byte of a pair. -/
  | unpaired : Unescapes [0x7D] none
  /-- Any other byte is kept. -/
  | plain {v : Byte} {rest : Bytes} {out : Option Bytes} :
    v ≠ 0x7D → Unescapes rest out → Unescapes (v :: rest) (out.map fun o => v :: o)
  /-- An escape byte consumes the interior byte after it, whatever that is. -/
  | pair {v : Byte} {rest : Bytes} {out : Option Bytes} :
    Unescapes rest out → Unescapes (0x7D :: v :: rest) (out.map fun o => (v ^^^ 0x50) :: o)

/-! ### Readings of a buffer. -/

/-- `buf[st : stop]` is the frame that R175 finds: `st` is the last index of the first run of start flags, and
`stop - 1` is the first end flag at distance 4 or more from it. -/
structure IsFirstFrame (buf : Bytes) (st stop : Nat) : Prop where
  startFlag : buf[st]? = some 0x0B
  firstRun : ∀ j k, j ≤ k → k ≤ st → buf[j]? = some 0x0B → buf[k]? = some 0x0B
  runEnds : buf[st + 1]? ≠ some 0x0B
  longEnough : st + 5 ≤ stop
  endFlag : buf[stop - 1]? = some 0x0C
  firstEnd : ∀ e, st + 4 ≤ e → e < stop - 1 → buf[e]? ≠ some 0x0C

/-- The conditions of spec/43_segment_reassemble.md R188 on one stuffed frame: no `0x0C` at an index from 4 up to its
last but one, and no four consecutive `0xFF`. -/
structure Transparent (w : Bytes) : Prop where
  noEarlyEnd : ∀ e, 4 ≤ e → e + 2 ≤ w.length → w[e]? ≠ some 0x0C
  noJam : ∀ j, (w.drop j).take 4 ≠ [0xFF, 0xFF, 0xFF, 0xFF]

/-! ### Runs. -/

/-- `n` transitions that nobody schedules. -/
def runCore (n : Nat) (s : State) : Result := Host.Core.run Sys2Proof.core n s

end Sys2Proof.Machine
end

