-- ==== Sys2Proof/Certificates/Slice0/Obligations.lean ====
section
/-! DEFINITION. The statements for the provers: what the numbered rules of spec/ say HSB does. -/

open Sys2Proof Sys2Proof.Machine

/-! ### Reset and the step -/

/-- R37, R280, R281: in the reset state every field of R22 is at its value and both traces are empty; `@RESET`, in every
state, writes the nine fields and touches neither trace, nor parameters, nor the model's own fields but the turn it uses
up.
The turn stands in the model's schedule (log entries 1, 14). -/
def Obligations.ResetWritesNineFields : Prop :=
  (State.reset.rxb = [] ∧ State.reset.macState = .idle ∧ State.reset.attempt = 0 ∧ State.reset.txIdx = 0
    ∧ State.reset.backoffCnt = 0 ∧ State.reset.txf = [] ∧ State.reset.emuEn = false ∧ State.reset.jamFlag = false
    ∧ State.reset.collisionCount = 0 ∧ State.reset.txTrace = [] ∧ State.reset.evTrace = [])
  ∧ ∀ (s : State) (rest : List Turn),
    step { s with sched := .reset :: rest } = .next
      { s with
        rxb := [], macState := .idle, attempt := 0, txIdx := 0, backoffCnt := 0, txf := [], emuEn := false,
        jamFlag := false, collisionCount := 0, sched := rest }

/-- R82 step 5: the step of a host's packet that decodes to an operation is the operation's meaning, with the turn used
up and nothing else done around it.
How a packet comes to be next is the model's choice (log entries 1, 7); the operand
ranges are the meaning's own test (log entry 9). -/
def Obligations.PacketStepRunsDecodedOperation : Prop :=
  ∀ (s : State) (rest : List Turn) (packet : Bytes) (i : Instr), decode packet = .ok i →
    step { s with sched := .host packet :: rest } = exec i { s with sched := rest }

/-- R80: a delivery of a chunk is the command `RX.DELIVER` issued by the channel agent.
The turn, and the response field it writes, are the model's choice (log entries 1, 13). -/
def Obligations.ChannelTurnIsRxDeliver : Prop :=
  ∀ (s : State) (rest : List Turn) (chunk : Bytes), chunk.length ≤ 65535 →
    step { s with sched := .channel chunk :: rest } = exec (.rxDeliver chunk) { s with sched := rest }

/-- R82, R90, R255: a packet that steps 1 to 4 refuse is answered with the one status byte of `ERR_ILLEGAL_OP` (01),
`ERR_FORMAT` (02) or `ERR_OPERAND` (03); the turn is used up and nothing else changes.
The turn stands in the model's schedule (log entry 1). -/
def Obligations.RefusedPacketOnlyAnswers : Prop :=
  ∀ (s : State) (rest : List Turn) (packet : Bytes) (e : Status), decodeCommand packet = .error e →
    ∃ code : Byte,
      step { s with sched := .host packet :: rest } = .next { s with sched := rest, response := [code] }
        ∧ ((e = .errIllegalOp ∧ code = 0x01) ∨ (e = .errFormat ∧ code = 0x02) ∨ (e = .errOperand ∧ code = 0x03))

/-! ### Encoding -/

/-- R81, R83, R86: a packet of each of the nineteen rows, its opcode and its operands written out byte by byte, decodes
to the operation it stands for; the last one has a length whose high byte is not 0. -/
def Obligations.SamplePacketsDecode : Prop :=
  decode [0x10, 0x02] = .ok (.fecKcount 2)
    ∧ decode [0x11, 0x02, 0x48, 0x49] = .ok (.fecEncode [0x48, 0x49])
    ∧ decode [0x12, 0x02, 0x48, 0x49, 0x01, 0x08] = .ok (.fecVerify [0x48, 0x49] [0x08])
    ∧ decode [0x13, 0x02, 0x68, 0x49, 0x01, 0x08] = .ok (.fecCorrect [0x68, 0x49] [0x08])
    ∧ decode [0x20, 0x03, 0x02, 0x02, 0x48, 0x49, 0x01, 0x08] = .ok (.frmSerialize 3 2 [0x48, 0x49] [0x08])
    ∧ decode [0x21, 0x00, 0x05, 0x0B, 0x07, 0x09, 0x55, 0x0C] = .ok (.frmDeserialize [0x0B, 0x07, 0x09, 0x55, 0x0C])
    ∧ decode [0x22, 0x00, 0x02, 0x0B, 0x0C] = .ok (.frmCheck [0x0B, 0x0C])
    ∧ decode [0x30, 0x00, 0x03, 0x0B, 0x7D, 0x0C] = .ok (.stfStuff [0x0B, 0x7D, 0x0C])
    ∧ decode [0x31, 0x00, 0x04, 0x0B, 0x7D, 0x7D, 0x0C] = .ok (.stfUnstuff [0x0B, 0x7D, 0x7D, 0x0C])
    ∧ decode [0x40, 0x00, 0x02, 0x48, 0x49] = .ok (.segSegment [0x48, 0x49])
    ∧ decode [0x41, 0x00, 0x02, 0xAA, 0x0B] = .ok (.rxFind [0xAA, 0x0B])
    ∧ decode [0x42, 0x00, 0x02, 0x0B, 0x01] = .ok (.rxDeliver [0x0B, 0x01])
    ∧ decode [0x50, 0x02, 0x48, 0x49] = .ok (.injInject [0x48, 0x49])
    ∧ decode [0x60, 0x00, 0x03, 0x0B, 0x01, 0x0C] = .ok (.macSend [0x0B, 0x01, 0x0C])
    ∧ decode [0x61] = .ok .macStatus
    ∧ decode [0x62, 0x01] = .ok (.macSetEmu 1)
    ∧ decode [0x63] = .ok .macStatsReset
    ∧ decode [0x64] = .ok .macStats
    ∧ decode [0x65, 0xC8] = .ok (.macBkdelay 200)
    ∧ decode (0x42 :: 0x01 :: 0x02 :: List.replicate 258 0xAA) = .ok (.rxDeliver (List.replicate 258 0xAA))

/-- Every operation whose operands a packet can carry decodes from its own packet. -/
def Obligations.DecodeOfEncode : Prop := ∀ i : Instr, i.encodable = true → decode (encode i) = .ok i

/-- A packet decodes to at most one operation, and only the operation's own packet decodes to it: no packet has a
second spelling, no byte of it is ignored (R83: lengths are exact; R87: no bit is reserved). -/
def Obligations.OnlyEncodingsDecode : Prop :=
  ∀ (packet : Bytes) (i : Instr), decode packet = .ok i → i.encodable = true ∧ encode i = packet

/-- R82, R91: every packet is one operation with its operands in range or one of the three errors, by the first test
that it meets: empty, opcode, length, operand ranges. -/
def Obligations.DecoderReportsFirstFault : Prop :=
  decodeCommand [] = .error .errFormat
    ∧ ∀ (b : Byte) (rest : Bytes),
      ((∀ i : Instr, (encode i).head? ≠ some b) → decodeCommand (b :: rest) = .error .errIllegalOp)
      ∧ ((∃ i : Instr, (encode i).head? = some b) →
          (∀ i : Instr, i.encodable = true → encode i ≠ b :: rest) → decodeCommand (b :: rest) = .error .errFormat)
      ∧ (∀ i : Instr, i.encodable = true → encode i = b :: rest → i.wellFormed = false →
          decodeCommand (b :: rest) = .error .errOperand)
      ∧ (∀ i : Instr, i.wellFormed = true → encode i = b :: rest → decodeCommand (b :: rest) = .ok i)

/-! ### Errors -/

/-- R86, R251: an operand outside its range is answered `ERR_OPERAND`, and nothing else changes.
For operands that no packet carries this is the model's
choice (log entry 17). -/
def Obligations.OperandOutOfRangeRefused : Prop :=
  ∀ (i : Instr) (s : State), i.wellFormed = false → exec i s = .next { s with response := [0x03] }

/-- R84, R251: every operation answers a next state whose response begins with a status; a status that is not `OK` is
the whole response and is one of those that R251 lets the operation raise. -/
def Obligations.ResponsesCarryTheirStatus : Prop :=
  ∀ (i : Instr) (s : State), i.encodable = true →
    ∃ t e results, exec i s = .next t ∧ t.response = Status.code e :: results
      ∧ (e = .ok ∨ (mayRaise i e = true ∧ results = []))

/-- R251, R255: an operation that answers an error has left the nine fields and the channel as they were; the one
exception is `ERR_RX_OVERFLOW`, which empties the receive buffer. -/
def Obligations.ErrorsAreLocal : Prop :=
  ∀ (i : Instr) (s t : State) (e : Status), exec i s = .next t → e ≠ .ok → t.response = [Status.code e] →
    t.txTrace = s.txTrace ∧
      (if e = .errRxOverflow then t.rxb = [] ∧ t.emuEn = s.emuEn ∧ SameMac s t else SamePersistent s t)

/-- R36, R250: in a state that keeps the invariants no transition of any agent stops HSB. -/
def Obligations.NoTransitionStopsHsb : Prop := ∀ s : State, Inv s → ∃ t, step s = .next t

/-! ### FEC -/

/-- R141: `FEC.KCOUNT n` returns the least `k` with `2^k >= 8n + 1`, and changes nothing but the response. -/
def Obligations.KcountIsLeastExponent : Prop :=
  ∀ (n : Byte) (s : State), ∃ k : Byte,
    exec (.fecKcount n) s = .next { s with response := [0x00, k] }
      ∧ 8 * n.toNat + 1 ≤ 2 ^ k.toNat ∧ ∀ j < k.toNat, 2 ^ j < 8 * n.toNat + 1

/-- R142, R143, R144: `FEC.ENCODE` returns the FCS whose bit `i < k` is the parity of the data bits at positions with
bit `i` set, whose bit `k` makes data bits, control bits and itself even together, and whose further bits are 0; its
length is `ceil((k + 1) / 8)`. Nothing but the response changes. A payload above 64 bytes is refused. -/
def Obligations.EncodeReturnsHammingFcs : Prop :=
  ∀ (p : Bytes) (s : State), (64 < p.length → exec (.fecEncode p) s = .next { s with response := [0x03] })
    ∧ (p.length ≤ 64 → ∃ fcs : Bytes,
      exec (.fecEncode p) s = .next { s with response := 0x00 :: BitVec.ofNat 8 fcs.length :: fcs }
      ∧ fcs.length = (kOf p.length + 1 + 7) / 8
      ∧ (∀ i < kOf p.length, wireBit fcs i = decide (countOnes p (fun pos => pos.testBit i) % 2 = 1))
      ∧ (countOnes p (fun _ => true) + (List.range (kOf p.length + 1)).countP (wireBit fcs)) % 2 = 0
      ∧ ∀ x, kOf p.length < x → wireBit fcs x = false)

/-- R146: `FEC.VERIFY` answers 1 exactly for the FCS that `FEC.ENCODE` answers for the payload. -/
def Obligations.VerifyComparesWithEncode : Prop :=
  ∀ (p fcs : Bytes) (s : State), p.length ≤ 64 → fcs.length ≤ 2 → ∃ m : Byte,
    exec (.fecVerify p fcs) s = .next { s with response := [0x00, m] }
      ∧ (m = 0 ∨ m = 1)
      ∧ (m = 1 ↔ exec (.fecEncode p) s = .next { s with response := 0x00 :: BitVec.ofNat 8 fcs.length :: fcs })

/-- R150 in whole, with R147 to R149, R151, R252: `FEC.CORRECT` always answers `OK`, and nothing but the response
changes. The syndrome `syn` has the bits of the control positions that mismatch; `pmis` is the parity of the data bits,
the received parity bit and the control bits, received or recomputed as the mode says. The tests in their order: the
empty payload, -1; the FCS that `FEC.ENCODE` gives, 0; an FCS of the wrong length, 2; `pmis` with a syndrome in
`1 .. 8n`, 1, and that data bit inverted; every other combination, 2. The payload is altered with outcome 1 only. -/
def Obligations.CorrectFollowsR150 : Prop :=
  ∀ (p fcs : Bytes) (s : State), p.length ≤ 64 → fcs.length ≤ 2 → ∃ (syn : Nat) (pmis : Bool),
    (∀ i, syn.testBit i = true ↔
      i < kOf p.length ∧ wireBit fcs i ≠ decide (countOnes p (fun pos => pos.testBit i) % 2 = 1))
    ∧ (pmis = true ↔
      (countOnes p (fun _ => true) + (wireBit fcs (kOf p.length)).toNat
        + (List.range (kOf p.length)).countP fun i =>
          if s.params.parityMode = .received then wireBit fcs i
          else decide (countOnes p (fun pos => pos.testBit i) % 2 = 1)) % 2 = 1)
    ∧ exec (.fecCorrect p fcs) s = .next
      { s with
        response :=
          if p = [] then [0x00, 0xFF, 0, 0, 0, 0]
          else if fecEncode p = fcs then 0x00 :: 0x00 :: 0 :: 0 :: 0 :: BitVec.ofNat 8 p.length :: p
          else if fcs.length ≠ (kOf p.length + 1 + 7) / 8 then
            0x00 :: 0x02 :: 0 :: 0 :: 0 :: BitVec.ofNat 8 p.length :: p
          else if pmis = true ∧ 1 ≤ syn ∧ syn ≤ 8 * p.length then
            0x00 :: 0x01 :: BitVec.ofNat 8 (syn / 256) :: BitVec.ofNat 8 syn :: 1 :: BitVec.ofNat 8 p.length
              :: invertBit p (syn - 1)
          else
            0x00 :: 0x02 :: BitVec.ofNat 8 (syn / 256) :: BitVec.ofNat 8 syn :: (if pmis then 1 else 0)
              :: BitVec.ofNat 8 p.length :: p }

/-- R149, R151: the empty payload gives -1 whatever the FCS; an FCS of the wrong length gives 2 with the payload
unchanged and no syndrome. -/
def Obligations.CorrectOnEmptyAndWrongLength : Prop :=
  ∀ (p fcs : Bytes) (s : State), p.length ≤ 64 → fcs.length ≤ 2 →
    (p = [] → exec (.fecCorrect p fcs) s = .next { s with response := [0x00, 0xFF, 0, 0, 0, 0] })
    ∧ (p ≠ [] → fcs.length ≠ (kOf p.length + 1 + 7) / 8 →
        exec (.fecCorrect p fcs) s = .next
          { s with response := 0x00 :: 0x02 :: 0 :: 0 :: 0 :: BitVec.ofNat 8 p.length :: p })

/-- R153, first row: in mode `RECEIVED` every single inverted data bit is corrected, with its position as syndrome. -/
def Obligations.SingleDataErrorCorrected : Prop :=
  ∀ (p : Bytes) (pos : Nat) (s : State), p.length ≤ 64 → 1 ≤ pos → pos ≤ 8 * p.length →
    s.params.parityMode = .received →
    exec (.fecCorrect (invertBit p (pos - 1)) (fecEncode p)) s = .next
      { s with
        response :=
          0x00 :: 0x01 :: BitVec.ofNat 8 (pos / 256) :: BitVec.ofNat 8 pos :: 1 :: BitVec.ofNat 8 p.length :: p }

/-- R153, the other rows: in mode `RECEIVED` an inverted control bit `i` makes the decoder invert data bit `2^i` of the
undamaged payload; an inverted parity bit or padding bit gives outcome 2. -/
def Obligations.SingleFcsErrorIsNotRepaired : Prop :=
  ∀ (p : Bytes) (x : Nat) (s : State), 1 ≤ p.length → p.length ≤ 64 → x < 8 * (fecEncode p).length →
    s.params.parityMode = .received →
    exec (.fecCorrect p (invertBit (fecEncode p) x)) s = .next
      { s with
        response :=
          if x < kOf p.length then
            0x00 :: 0x01 :: BitVec.ofNat 8 (2 ^ x / 256) :: BitVec.ofNat 8 (2 ^ x) :: 1 :: BitVec.ofNat 8 p.length
              :: invertBit p (2 ^ x - 1)
          else 0x00 :: 0x02 :: 0 :: 0 :: (if x = kOf p.length then 1 else 0) :: BitVec.ofNat 8 p.length :: p }

/-- R154: in mode `RECEIVED` every double error inside the payload is detected and leaves the payload alone. -/
def Obligations.DoubleDataErrorDetected : Prop :=
  ∀ (p : Bytes) (a b : Nat) (s : State), p.length ≤ 64 → 1 ≤ a → a < b → b ≤ 8 * p.length →
    s.params.parityMode = .received →
    exec (.fecCorrect (invertBit (invertBit p (a - 1)) (b - 1)) (fecEncode p)) s = .next
      { s with
        response :=
          0x00 :: 0x02 :: BitVec.ofNat 8 ((a ^^^ b) / 256) :: BitVec.ofNat 8 (a ^^^ b) :: 0 :: BitVec.ofNat 8 p.length
            :: invertBit (invertBit p (a - 1)) (b - 1) }

/-- R154, R296: data bit `2^i` together with control bit `i` passes as no error, in either mode. -/
def Obligations.DataAndControlPairUndetected : Prop :=
  ∀ (p : Bytes) (i : Nat) (s : State), 1 ≤ p.length → p.length ≤ 64 → i < kOf p.length →
    exec (.fecCorrect (invertBit p (2 ^ i - 1)) (invertBit (fecEncode p) i)) s = .next
      { s with
        response := 0x00 :: 0x00 :: 0 :: 0 :: 0 :: BitVec.ofNat 8 p.length :: invertBit p (2 ^ i - 1) }

/-- R155: in mode `RECOMPUTED` a single inverted data bit is corrected exactly when its position has an even number of
ones; otherwise the outcome is 2 and the damaged payload comes back. -/
def Obligations.RecomputedModeSingleDataError : Prop :=
  ∀ (p : Bytes) (pos : Nat) (s : State), p.length ≤ 64 → 1 ≤ pos → pos ≤ 8 * p.length →
    s.params.parityMode = .recomputed →
    exec (.fecCorrect (invertBit p (pos - 1)) (fecEncode p)) s = .next
      { s with
        response :=
          if ((List.range 10).countP fun i => pos.testBit i) % 2 = 0 then
            0x00 :: 0x01 :: BitVec.ofNat 8 (pos / 256) :: BitVec.ofNat 8 pos :: 1 :: BitVec.ofNat 8 p.length :: p
          else
            0x00 :: 0x02 :: BitVec.ofNat 8 (pos / 256) :: BitVec.ofNat 8 pos :: 0 :: BitVec.ofNat 8 p.length
              :: invertBit p (pos - 1) }

/-! ### FRM -/

/-- R101: `FRM.SERIALIZE` concatenates the fields between the flags, and refuses a payload above 64 bytes or an FCS that
is not of 1 or 2 bytes; nothing but the response changes. -/
def Obligations.SerializeConcatenatesFields : Prop :=
  ∀ (total sequence : Byte) (p fcs : Bytes) (s : State),
    exec (.frmSerialize total sequence p fcs) s = .next
      { s with
        response :=
          if p.length ≤ 64 ∧ 1 ≤ fcs.length ∧ fcs.length ≤ 2 then
            0x00 :: 0x00 :: BitVec.ofNat 8 (4 + p.length + fcs.length)
              :: ([0x0B, total, sequence] ++ p ++ fcs ++ [0x0C])
          else [0x03] }

/-- R104: every sequence of 5 to 70 bytes between the flags deserializes, with one FCS byte up to a length of 20 and two
above it; nothing but the response changes. -/
def Obligations.DeserializeSplitsByLength : Prop :=
  ∀ (total sequence : Byte) (p fcs : Bytes) (s : State),
    (fcs.length = 1 ∧ p.length ≤ 15) ∨ (fcs.length = 2 ∧ 15 ≤ p.length ∧ p.length ≤ 64) →
    exec (.frmDeserialize ([0x0B, total, sequence] ++ p ++ fcs ++ [0x0C])) s = .next
      { s with
        response :=
          0x00 :: total :: sequence :: BitVec.ofNat 8 p.length :: (p ++ BitVec.ofNat 8 fcs.length :: fcs) }

/-- R104, R105, R107: the failures of `FRM.DESERIALIZE`, in their order: too short, wrong flags, oversize; nothing but
the response changes. -/
def Obligations.DeserializeFailsInOrder : Prop :=
  ∀ (bytes : Bytes) (s : State), bytes.length ≤ 65535 →
    (bytes.length < 5 → exec (.frmDeserialize bytes) s = .next { s with response := [0x10] })
    ∧ (5 ≤ bytes.length → (bytes[0]? ≠ some 0x0B ∨ bytes[bytes.length - 1]? ≠ some 0x0C) →
        exec (.frmDeserialize bytes) s = .next { s with response := [0x11] })
    ∧ (70 < bytes.length → bytes[0]? = some 0x0B → bytes[bytes.length - 1]? = some 0x0C →
        exec (.frmDeserialize bytes) s = .next { s with response := [0x12] })

/-- R108: a frame built with the FCS of its payload comes back from its serialized form with every field. -/
def Obligations.FrameRoundTrip : Prop :=
  ∀ (total sequence : Byte) (p : Bytes) (s : State), p.length ≤ 64 → ∃ frame : Bytes,
    exec (.frmSerialize total sequence p (fecEncode p)) s = .next
        { s with response := 0x00 :: 0x00 :: BitVec.ofNat 8 frame.length :: frame }
      ∧ exec (.frmDeserialize frame) s = .next
        { s with
          response :=
            0x00 :: total :: sequence :: BitVec.ofNat 8 p.length
              :: (p ++ BitVec.ofNat 8 (fecEncode p).length :: fecEncode p) }

/-- R103: `FRM.CHECK` answers 1 exactly for a start flag, at least three bytes and an end flag; nothing but the response
changes. -/
def Obligations.CheckTestsLengthAndFlags : Prop :=
  ∀ (bytes : Bytes) (s : State), bytes.length ≤ 65535 → ∃ v : Byte,
    exec (.frmCheck bytes) s = .next { s with response := [0x00, v] }
      ∧ (v = 0 ∨ v = 1)
      ∧ (v = 1 ↔ ∃ mid : Bytes, bytes = 0x0B :: (mid ++ [0x0C]) ∧ 3 ≤ mid.length)

/-! ### STF -/

/-- R121, R122: `STF.STUFF` keeps the first and the last byte, replaces each interior `0x0B` by `7D 5B` and `0x7D` by
`7D 2D`, and keeps every other byte; a sequence shorter than 2 bytes is unchanged (R123), one above 70 is refused. -/
def Obligations.StuffEscapesInterior : Prop :=
  ∀ (s : State),
    (∀ b : Bytes, b.length < 2 →
      exec (.stfStuff b) s = .next { s with response := 0x00 :: 0x00 :: BitVec.ofNat 8 b.length :: b })
    ∧ (∀ b : Bytes, 70 < b.length → exec (.stfStuff b) s = .next { s with response := [0x03] })
    ∧ ∀ (first last : Byte) (interior : Bytes), interior.length ≤ 68 → ∃ w : Bytes,
      exec (.stfStuff (first :: (interior ++ [last]))) s = .next
          { s with response := 0x00 :: 0x00 :: BitVec.ofNat 8 w.length :: w }
        ∧ w.length ≤ 138
        ∧ w = first ::
            ((interior.flatMap fun v => if v = 0x0B then [0x7D, 0x5B] else if v = 0x7D then [0x7D, 0x2D] else [v])
              ++ [last])

/-- R126: `STF.UNSTUFF` gives back what `STF.STUFF` was given, for every sequence of at most 70 bytes; neither changes
anything but the response. -/
def Obligations.UnstuffInvertsStuff : Prop :=
  ∀ (b : Bytes) (s : State), b.length ≤ 70 → ∃ w : Bytes,
    exec (.stfStuff b) s = .next { s with response := 0x00 :: 0x00 :: BitVec.ofNat 8 w.length :: w }
      ∧ exec (.stfUnstuff w) s = .next { s with response := 0x00 :: 0x00 :: BitVec.ofNat 8 b.length :: b }

/-- R123, R124, R125: `STF.UNSTUFF` keeps the first and the last byte and reads the interior from its front: every
escape pair gives its second byte xor `0x50`, whatever that byte is and whatever follows the pair; every other byte is
kept; an interior that ends in an unpaired escape byte is refused with `ERR_DANGLING_ESCAPE`. A sequence shorter than 2
bytes comes back unchanged. Nothing but the response changes.
That a result above 70 bytes is returned is log entry 22. -/
def Obligations.UnstuffPairsAndDanglingEscape : Prop :=
  ∀ s : State,
    (∀ b : Bytes, b.length < 2 → exec (.stfUnstuff b) s = .next { s with response := 0x00 :: (twoBytes b.length ++ b) })
    ∧ ∀ (first last : Byte) (interior : Bytes), interior.length + 2 ≤ 65535 →
      (Unescapes interior none ∧
        exec (.stfUnstuff (first :: (interior ++ [last]))) s = .next { s with response := [0x20] })
      ∨ ∃ out : Bytes, Unescapes interior (some out) ∧
        exec (.stfUnstuff (first :: (interior ++ [last]))) s = .next
          { s with response := 0x00 :: (twoBytes (out.length + 2) ++ first :: (out ++ [last])) }

/-! ### SEG and RX -/

/-- R171: `SEG.SEGMENT` cuts the message into `max(1, ceil(len/64))` payloads that concatenate to it, all of 64 bytes but
the last, each in a record with the count, its 1-based index and its own FCS; a message above 16320 bytes is refused;
nothing but the response changes. -/
def Obligations.SegmentCutsMessage : Prop :=
  ∀ (m : Bytes) (s : State), (16320 < m.length → exec (.segSegment m) s = .next { s with response := [0x03] })
    ∧ (m.length ≤ 16320 → ∃ chunks : List Bytes,
    exec (.segSegment m) s = .next
        { s with
          response :=
            0x00 :: BitVec.ofNat 8 chunks.length
              :: (chunks.zipIdx.flatMap fun c =>
                BitVec.ofNat 8 chunks.length :: BitVec.ofNat 8 (c.2 + 1) :: BitVec.ofNat 8 c.1.length
                  :: (c.1 ++ BitVec.ofNat 8 (fecEncode c.1).length :: fecEncode c.1)) }
      ∧ chunks.flatten = m ∧ chunks.length = max 1 ((m.length + 63) / 64)
      ∧ (∀ c ∈ chunks.dropLast, c.length = 64) ∧ ∀ c ∈ chunks, c.length ≤ 64)

/-- R175: `RX.FIND` returns the bounds of the first frame, or 0 and 0 when the buffer holds none; nothing but the
response changes. -/
def Obligations.FindReturnsFirstFrame : Prop :=
  ∀ (buf : Bytes) (s : State), buf.length ≤ 65535 → ∃ st stop : Nat,
    exec (.rxFind buf) s = .next
        { s with
          response :=
            [0x00, BitVec.ofNat 8 (st / 256), BitVec.ofNat 8 st, BitVec.ofNat 8 (stop / 256), BitVec.ofNat 8 stop] }
      ∧ st ≤ 65535 ∧ stop ≤ 65535
      ∧ (stop ≠ 0 → IsFirstFrame buf st stop)
      ∧ (stop = 0 → st = 0 ∧ ∀ a b, ¬ IsFirstFrame buf a b)

/-- R177, R180: a run of `q` bytes `0xFF` that stands alone leaves `q mod 4` of them and counts `q div 4` jam runs; the
bytes before and after it are kept. `RX.DELIVER` of any chunk is `RX.DELIVER` of the stripped chunk, but for the event
`JamSeen(runs)` before the others and the field `jam_runs`: the later tests, and the buffer, see the stripped chunk
only (R182). -/
def Obligations.JamRunsAreStripped : Prop :=
  stripJam [] = ([], 0)
  ∧ (∀ (pre post : Bytes) (q : Nat), (∀ x ∈ pre, x ≠ 0xFF) → post.head? ≠ some 0xFF →
    stripJam (pre ++ List.replicate q 0xFF ++ post)
      = (pre ++ List.replicate (q % 4) 0xFF ++ (stripJam post).1, q / 4 + (stripJam post).2))
  ∧ ∀ (chunk : Bytes) (s : State), chunk.length ≤ 65535 → ∃ (t : State) (events : List Event) (clean jammed : Bytes),
    exec (.rxDeliver (stripJam chunk).1) s = .next { t with evTrace := s.evTrace ++ events, response := clean }
      ∧ exec (.rxDeliver chunk) s = .next
        { t with
          evTrace := s.evTrace ++ (if 0 < (stripJam chunk).2 then [.jamSeen (stripJam chunk).2] else []) ++ events
          response := jammed }
      ∧ ((clean = [0x50] ∧ jammed = [0x50])
        ∨ ∃ tail : Bytes, clean = 0x00 :: (twoBytes 0 ++ tail) ∧ jammed = 0x00 :: (twoBytes (stripJam chunk).2 ++ tail))

/-- R180, R184, R23: `RX.DELIVER` runs in every state, answers `OK` or `ERR_RX_OVERFLOW`, writes no field of R22 but the
receive buffer, leaves no complete frame in it, puts nothing on the channel and only appends to the event trace.
The draws are the model's fields (log entry 3). -/
def Obligations.DeliverWritesOnlyTheBuffer : Prop :=
  ∀ (chunk : Bytes) (s : State), chunk.length ≤ 65535 → ∃ (t : State) (events : List Event),
    exec (.rxDeliver chunk) s = .next t
      ∧ t = { s with
                rxb := t.rxb, evTrace := s.evTrace ++ events, response := t.response, draws := t.draws,
                drawCnt := t.drawCnt }
      ∧ (t.response.head? = some 0x00 ∨ t.response = [0x50])
      ∧ (rxFind t.rxb).2 = 0

/-- R178, R179: after stripping (`c`, R177) and the resynchronisation test, a delivery that does not fit empties the
buffer, delivers nothing, emits `RxOverflow` and answers `ERR_RX_OVERFLOW`: behind a chunk that opens no new frame, or
finds the buffer empty; and behind a `Resync`, when the chunk alone is too long. One that fits, as it is or because a
resynchronisation makes it fit, answers `OK`, and with the capacity infinity every one does. -/
def Obligations.DeliverOverflow : Prop :=
  ∀ (chunk : Bytes) (s : State) (c : Bytes) (runs : Nat), chunk.length ≤ 65535 → stripJam chunk = (c, runs) →
    (∀ cap, s.params.rxbufCap = some cap →
      ((c.head? ≠ some 0x0B ∨ s.rxb = []) → cap < s.rxb.length + c.length →
        exec (.rxDeliver chunk) s = .next
          { s with
            rxb := [], response := [0x50]
            evTrace := s.evTrace ++ (if 0 < runs then [.jamSeen runs] else []) ++ [.rxOverflow] })
      ∧ (c.head? = some 0x0B → s.rxb ≠ [] → cap < c.length →
        exec (.rxDeliver chunk) s = .next
          { s with
            rxb := [], response := [0x50]
            evTrace := s.evTrace ++ (if 0 < runs then [.jamSeen runs] else []) ++ [.resync, .rxOverflow] })
      ∧ (c.head? = some 0x0B → c.length ≤ cap →
        ∃ t, exec (.rxDeliver chunk) s = .next t ∧ t.response.head? = some 0x00)
      ∧ (s.rxb.length + c.length ≤ cap →
        ∃ t, exec (.rxDeliver chunk) s = .next t ∧ t.response.head? = some 0x00))
    ∧ (s.params.rxbufCap = none → ∃ t, exec (.rxDeliver chunk) s = .next t ∧ t.response.head? = some 0x00)

/-- R178, R182: a chunk that, once stripped (`c`, R177), opens with a start flag while the buffer holds bytes discards
them: the buffer, the records and the later deliveries are those of an empty buffer; the event `Resync` and the field
`resync` say so. For any other chunk that fits, the field is 0 and there is no such event. -/
def Obligations.ResyncDiscardsStaleBuffer : Prop :=
  ∀ (chunk : Bytes) (s : State) (c : Bytes) (runs : Nat), chunk.length ≤ 65535 → stripJam chunk = (c, runs) →
    (c.head? = some 0x0B → s.rxb ≠ [] → (∀ cap, s.params.rxbufCap = some cap → c.length ≤ cap) →
      ∃ (t : State) (events : List Event) (tail : Bytes),
        exec (.rxDeliver chunk) { s with rxb := [] } = .next
            { t with
              evTrace := s.evTrace ++ (if 0 < runs then [.jamSeen runs] else []) ++ events
              response := 0x00 :: (twoBytes runs ++ 0x00 :: tail) }
          ∧ exec (.rxDeliver chunk) s = .next
            { t with
              evTrace := s.evTrace ++ (if 0 < runs then [.jamSeen runs] else []) ++ .resync :: events
              response := 0x00 :: (twoBytes runs ++ 0x01 :: tail) })
    ∧ (c.head? ≠ some 0x0B ∨ s.rxb = [] →
      (∀ cap, s.params.rxbufCap = some cap → s.rxb.length + c.length ≤ cap) →
      ∃ (t : State) (events : List Event) (tail : Bytes),
        exec (.rxDeliver chunk) s = .next
            { t with
              evTrace := s.evTrace ++ (if 0 < runs then [.jamSeen runs] else []) ++ events
              response := 0x00 :: (twoBytes runs ++ 0x00 :: tail) }
          ∧ .resync ∉ events)

/-- R180, R181, R183, R200: what `RX.DELIVER` makes of the bytes it scans, `buf`, the buffer and the stripped chunk `c`
(the chunk alone when it opens with a start flag).
With no complete frame in `buf` all of it is kept. Else the first frame is taken off with the bytes before it, and the
rest is scanned as a delivery of nothing more would scan it. A frame that unstuffing or deserialization fails on is
dropped: `FrameDropped` with the reason, one more in `dropped`. Any other frame is delivered: with `st.emu_en = 1` the
injector goes over its payload first and `injected` is its count (the draws are log entry 3), else it is 0; then
`FEC.CORRECT`; `FrameDelivered`, and its record before those of the rest.
Last: a frame with the FCS of its payload, delivered whole in one chunk into an empty buffer, comes out with its payload
unchanged: outcome 0 (-1 for the empty payload) where nothing is injected, and outcome 1, injected 1 where one bit is
(R188, R203). -/
def Obligations.DeliverProcessesFrames : Prop :=
  (∀ (chunk : Bytes) (s : State) (c buf : Bytes) (runs : Nat) (before : List Event) (resync : Byte),
    chunk.length ≤ 65535 → stripJam chunk = (c, runs) → buf = (if c.head? = some 0x0B then c else s.rxb ++ c) →
    (∀ cap, s.params.rxbufCap = some cap → buf.length ≤ cap) →
    before = (if 0 < runs then [.jamSeen runs] else [])
      ++ (if c.head? = some 0x0B ∧ s.rxb ≠ [] then [.resync] else []) →
    resync = (if c.head? = some 0x0B ∧ s.rxb ≠ [] then 1 else 0) →
    ((∀ a b, ¬ IsFirstFrame buf a b) →
      exec (.rxDeliver chunk) s = .next
        { s with
          rxb := buf, evTrace := s.evTrace ++ before
          response := 0x00 :: (twoBytes runs ++ resync :: (twoBytes 0 ++ twoBytes 0)) })
    ∧ ∀ (st stop : Nat) (w : Bytes), IsFirstFrame buf st stop → w = (buf.take stop).drop st →
      (∀ e : Status, (unstuff w = .error e ∨ ∃ u, unstuff w = .ok u ∧ deserialize u = .error e) →
        ∃ (t : State) (events : List Event) (dropped frames : Nat) (records : Bytes),
          exec (.rxDeliver []) { s with rxb := buf.drop stop } = .next
              { t with
                evTrace := s.evTrace ++ events
                response := 0x00 :: (twoBytes 0 ++ 0x00 :: (twoBytes dropped ++ twoBytes frames ++ records)) }
            ∧ exec (.rxDeliver chunk) s = .next
              { t with
                evTrace := s.evTrace ++ before ++ .frameDropped e :: events
                response :=
                  0x00 :: (twoBytes runs ++ resync :: (twoBytes (dropped + 1) ++ twoBytes frames ++ records)) })
      ∧ ∀ (u : Bytes) (f : Frame) (inj : Injection) (r : FecResult) (outcome : Byte),
        unstuff w = .ok u → deserialize u = .ok f →
        inj = (if s.emuEn then inject f.payload s else ⟨f.payload, 0, s⟩) →
        r = fecCorrect s.params.parityMode inj.payload f.fcs →
        ((r.outcome = .emptyPayload ∧ outcome = 0xFF) ∨ (r.outcome = .noError ∧ outcome = 0x00)
          ∨ (r.outcome = .corrected ∧ outcome = 0x01) ∨ (r.outcome = .uncorrectable ∧ outcome = 0x02)) →
        ∃ (t : State) (events : List Event) (dropped frames : Nat) (records : Bytes),
          exec (.rxDeliver []) { inj.state with rxb := buf.drop stop } = .next
              { t with
                evTrace := s.evTrace ++ events
                response := 0x00 :: (twoBytes 0 ++ 0x00 :: (twoBytes dropped ++ twoBytes frames ++ records)) }
            ∧ exec (.rxDeliver chunk) s = .next
              { t with
                evTrace :=
                  s.evTrace ++ before ++
                    .frameDelivered
                      ⟨f.total, f.sequence, r.outcome, inj.errorCount, decide (f.sequence = f.total), r.payload⟩ :: events
                response :=
                  0x00 :: (twoBytes runs ++ resync :: (twoBytes dropped ++ twoBytes (frames + 1)
                    ++ [f.total, f.sequence, outcome, BitVec.ofNat 8 inj.errorCount,
                        if f.sequence = f.total then 1 else 0, BitVec.ofNat 8 r.payload.length]
                    ++ r.payload ++ records)) })
  ∧ ∀ (total sequence : Byte) (p : Bytes) (s : State), p.length ≤ 64 → s.rxb = [] → s.params.legal = true →
    Transparent (wireFrame (buildFrame total sequence p)) →
    (s.emuEn = false ∨ p = [] →
      exec (.rxDeliver (wireFrame (buildFrame total sequence p))) s = .next
        { s with
          evTrace :=
            s.evTrace ++
              [.frameDelivered
                ⟨total, sequence, if p = [] then .emptyPayload else .noError, 0, decide (sequence = total), p⟩]
          response :=
            [0x00, 0, 0, 0, 0, 0, 0, 1, total, sequence, if p = [] then 0xFF else 0x00, 0,
              if sequence = total then 1 else 0, BitVec.ofNat 8 p.length] ++ p })
    ∧ ∀ (byte bit : Nat) (rest : List Nat), s.emuEn = true → s.params.parityMode = .received → byte < p.length →
      bit < 8 → s.draws = 0 :: byte :: bit :: rest →
      exec (.rxDeliver (wireFrame (buildFrame total sequence p))) s = .next
        { s with
          draws := rest
          evTrace := s.evTrace ++ [.frameDelivered ⟨total, sequence, .corrected, 1, decide (sequence = total), p⟩]
          response :=
            [0x00, 0, 0, 0, 0, 0, 0, 1, total, sequence, 0x01, 1, if sequence = total then 1 else 0,
              BitVec.ofNat 8 p.length] ++ p }

/-- R188: a message cut by `SEG.SEGMENT`, each frame stuffed and delivered whole in one chunk, in order, is
reconstructed exactly by the host (R186), under the conditions of R188.
The turns stand in the model's schedule (log entry 1), a channel's among them (log entry 13). -/
def Obligations.MessageReassembles : Prop :=
  ∀ (m : Bytes) (s : State), m.length ≤ 16320 → s.rxb = [] → s.emuEn = false → s.params.legal = true →
    (∀ f ∈ segment m, Transparent (wireFrame f)) →
    ∃ (t : State) (recs : List FrameRecord),
      runCore (segment m).length { s with sched := (segment m).map fun f => .channel (wireFrame f) } = .next t
        ∧ t.rxb = []
        ∧ t.evTrace = s.evTrace ++ recs.map .frameDelivered
        ∧ reconstruct recs = ⟨[m], []⟩

/-! ### INJ -/

/-- R201, R202: on the empty payload `INJ.INJECT` draws nothing and answers 0 flips; on a payload of `n` bytes it makes
one or two flips, each at a data position of the payload, and says how many; nothing changes but the response and the
draws used up.
The draws are the model's fields (log entry 3). -/
def Obligations.InjectFlipsOneOrTwoBits : Prop :=
  ∀ (p : Bytes) (s : State), p.length ≤ 64 → ∃ t : State,
    exec (.injInject p) s = .next t
      ∧ (p = [] → t = { s with response := [0x00, 0x00, 0x00] })
      ∧ (p ≠ [] →
        t = { s with response := t.response, draws := t.draws, drawCnt := t.drawCnt }
        ∧ ((∃ x < 8 * p.length, t.response = 0x00 :: 0x01 :: BitVec.ofNat 8 p.length :: invertBit p x)
          ∨ ∃ x < 8 * p.length, ∃ y < 8 * p.length,
            t.response = 0x00 :: 0x02 :: BitVec.ofNat 8 p.length :: invertBit (invertBit p x) y))

/-- R201, R202: the flips are those the environment draws, in the order `two`, then `byte_i`, `bit_i` of each flip, with
bit 0 the least significant.
That the answers stand in a list read in this order is the model's choice
(log entries 3, 15). -/
def Obligations.InjectFollowsItsDraws : Prop :=
  ∀ (p : Bytes) (s : State) (byte1 bit1 byte2 bit2 : Nat) (rest : List Nat), p.length ≤ 64 →
    byte1 < p.length → bit1 < 8 → byte2 < p.length → bit2 < 8 →
    exec (.injInject p) { s with draws := 0 :: byte1 :: bit1 :: rest } = .next
        { s with
          draws := rest
          response := 0x00 :: 0x01 :: BitVec.ofNat 8 p.length :: invertBit p (8 * byte1 + (7 - bit1)) }
      ∧ exec (.injInject p) { s with draws := 1 :: byte1 :: bit1 :: byte2 :: bit2 :: rest } = .next
        { s with
          draws := rest
          response :=
            0x00 :: 0x02 :: BitVec.ofNat 8 p.length
              :: invertBit (invertBit p (8 * byte1 + (7 - bit1))) (8 * byte2 + (7 - bit2)) }

/-! ### MAC operations -/

/-- R211: in emulation mode and quiet, `MAC.SEND` latches the frame, clears the jam flag and enters `SENSE`; nothing
else changes. -/
def Obligations.SendLatchesFrame : Prop :=
  ∀ (w : Bytes) (s : State), 1 ≤ w.length → w.length ≤ 138 →
    (s.macState = .idle ∨ s.macState = .success ∨ s.macState = .giveUp) → s.emuEn = true →
    exec (.macSend w) s = .next
      { s with
        txf := w, attempt := 0, txIdx := 0, backoffCnt := 0, jamFlag := false, macState := .sense, response := [0x00] }

/-- R211, R63: while a frame is in flight `MAC.SEND` is refused and changes nothing, in either mode. -/
def Obligations.SendWhileBusyRefused : Prop :=
  ∀ (w : Bytes) (s : State), 1 ≤ w.length → w.length ≤ 138 →
    (s.macState = .sense ∨ s.macState = .transmit ∨ s.macState = .collided ∨ s.macState = .backoff) →
    exec (.macSend w) s = .next { s with response := [0x40] }

/-- R216: in bypass mode `MAC.SEND` makes one channel write of the whole frame and reports it; no field of R22 is
written. The channel's answer is the next draw.
How it is read is the model's choice (log entry 3). -/
def Obligations.SendDirectWritesChannel : Prop :=
  ∀ (w : Bytes) (s : State), 1 ≤ w.length → w.length ≤ 138 →
    (s.macState = .idle ∨ s.macState = .success ∨ s.macState = .giveUp) → s.emuEn = false →
    exec (.macSend w) s = .next
      (if s.drawValue 1 = 1 then
        { s.afterDraw with txTrace := s.txTrace ++ w, evTrace := s.evTrace ++ [.txDone true], response := [0x00] }
      else { s.afterDraw with evTrace := s.evTrace ++ [.txDone false], response := [0x41] })

/-- R24, R212, R215: `MAC.STATUS` returns the code of the state (0 to 6, in the order of R24), the attempt, the index and
the countdown, and `MAC.STATS` the three statistics; they change nothing but the response. -/
def Obligations.StatusAndStatsRead : Prop :=
  ∀ s : State, ∃ (code attempt txIdx cntHi cntLo c3 c2 c1 c0 : Byte),
    exec .macStatus s = .next { s with response := [0x00, code, attempt, txIdx, cntHi, cntLo] }
      ∧ ((s.macState = .idle ∧ code = 0) ∨ (s.macState = .sense ∧ code = 1) ∨ (s.macState = .transmit ∧ code = 2)
        ∨ (s.macState = .success ∧ code = 3) ∨ (s.macState = .collided ∧ code = 4)
        ∨ (s.macState = .backoff ∧ code = 5) ∨ (s.macState = .giveUp ∧ code = 6))
      ∧ attempt.toNat = s.attempt.toNat ∧ txIdx = s.txIdx
      ∧ cntHi.toNat * 256 + cntLo.toNat = s.backoffCnt.toNat
      ∧ exec .macStats s = .next
        { s with
          response := [0x00, c3, c2, c1, c0, if s.jamFlag then 1 else 0, if s.emuEn then 1 else 0] }
      ∧ ((c3.toNat * 256 + c2.toNat) * 256 + c1.toNat) * 256 + c0.toNat = s.collisionCount.toNat

/-- R213, R214: `MAC.SET_EMU` writes the flag and nothing else, and refuses a value above 1; `MAC.STATS_RESET` clears the
two statistics and nothing else; both in every state. -/
def Obligations.SetEmuAndStatsReset : Prop :=
  ∀ s : State,
    exec (.macSetEmu 0) s = .next { s with emuEn := false, response := [0x00] }
      ∧ exec (.macSetEmu 1) s = .next { s with emuEn := true, response := [0x00] }
      ∧ (∀ a : Byte, 1 < a.toNat → exec (.macSetEmu a) s = .next { s with response := [0x03] })
      ∧ exec .macStatsReset s = .next { s with collisionCount := 0, jamFlag := false, response := [0x00] }

/-- R218, R219: `MAC.BKDELAY a` returns a delay in `0 .. 2^min(a, 10) - 1`, every value of that range for some answer of
the environment; nothing changes but the response and the draw used up.
The list of answers is the model's choice (log entry 3). -/
def Obligations.BackoffDelayBound : Prop :=
  ∀ (a : Byte) (s : State),
    (∃ (hi lo : Byte) (t : State),
      exec (.macBkdelay a) s = .next { t with response := [0x00, hi, lo] }
        ∧ t = { s with draws := t.draws, drawCnt := t.drawCnt }
        ∧ hi.toNat * 256 + lo.toNat ≤ 2 ^ min a.toNat 10 - 1)
    ∧ ∀ (r : Nat) (rest : List Nat), r ≤ 2 ^ min a.toNat 10 - 1 →
      exec (.macBkdelay a) { s with draws := r :: rest } = .next
        { s with draws := rest, response := [0x00, BitVec.ofNat 8 (r / 256), BitVec.ofNat 8 r] }

/-! ### The sequencer and the slot timer -/

/-- R221: the `SENSE` step.
The turn and the draws stand in the model's fields (log entries 1, 3, 15). -/
def Obligations.SenseStepFollowsR221 : Prop :=
  ∀ (s : State) (rest : List Turn), s.macState = .sense →
    step { s with sched := .sequencer :: rest } = .next
      (if s.attempt = 16 then
        { s with sched := rest, macState := .giveUp, evTrace := s.evTrace ++ [.txDone false] }
      else if s.drawValue 1 = 1 then
        { s.afterDraw.afterDraw with
          sched := rest, macState := .backoff
          backoffCnt := BitVec.ofNat 10 (s.afterDraw.drawValue (2 ^ min s.attempt.toNat 10 - 1))
          evTrace := s.evTrace ++ [.mediumBusy s.attempt] }
      else { s.afterDraw with sched := rest, txIdx := 0, macState := .transmit })

/-- R222: the `TRANSMIT` step, in a state whose index names a byte of the frame (R36 (4)).
The turn and the draws stand in the model's fields
(log entries 1, 3, 15). -/
def Obligations.TransmitStepFollowsR222 : Prop :=
  ∀ (s : State) (rest : List Turn) (b : Byte), s.macState = .transmit → s.txf[s.txIdx.toNat]? = some b →
    s.txf.length ≤ 138 →
    step { s with sched := .sequencer :: rest } = .next
      (if s.drawValue 1 = 1 then
        { s.afterDraw with
          sched := rest, macState := .collided, evTrace := s.evTrace ++ [.collision s.txIdx .trial] }
      else if s.afterDraw.drawValue 1 = 0 then
        { s.afterDraw.afterDraw with
          sched := rest, macState := .collided, evTrace := s.evTrace ++ [.collision s.txIdx .write] }
      else if s.txIdx.toNat + 1 = s.txf.length then
        { s.afterDraw.afterDraw with
          sched := rest, txTrace := s.txTrace ++ [b], txIdx := s.txIdx + 1, macState := .success
          evTrace := s.evTrace ++ [.txDone true] }
      else
        { s.afterDraw.afterDraw with sched := rest, txTrace := s.txTrace ++ [b], txIdx := s.txIdx + 1 })

/-- R224, R31: the `COLLIDED` step.
The turn and the draws stand in the model's fields (log entries 1, 3, 15). -/
def Obligations.CollidedStepFollowsR224 : Prop :=
  ∀ (s : State) (rest : List Turn), s.macState = .collided → ∃ c : BitVec 32,
    step { s with sched := .sequencer :: rest } = .next
        { s.afterDraw.afterDraw with
          sched := rest, macState := .backoff, collisionCount := c, jamFlag := true
          backoffCnt := BitVec.ofNat 10 (s.afterDraw.drawValue (2 ^ min s.attempt.toNat 10 - 1))
          txTrace := if s.drawValue 1 = 1 then s.txTrace ++ [0xFF, 0xFF, 0xFF, 0xFF] else s.txTrace
          evTrace := s.evTrace ++ [.jamSent (decide (s.drawValue 1 = 1))] }
      ∧ c.toNat = (s.collisionCount.toNat + 1) % 2 ^ 32

/-- R220, R225, R227: in `BACKOFF` above 0 the tick takes one slot off and the sequencer has no step; in `BACKOFF` at 0
the tick does nothing and the expiry step goes back to `SENSE` with one more attempt; in every other state the tick does
nothing; in the quiet states the sequencer has no step.
The turns stand in the model's schedule (log entry 1); a turn
with no enabled step is log entry 11. -/
def Obligations.TickAndExpiryFollowR225AndR227 : Prop :=
  ∀ (s : State) (rest : List Turn),
    step { s with sched := .tick :: rest } = .next
        (if s.macState = .backoff ∧ s.backoffCnt ≠ 0 then { s with sched := rest, backoffCnt := s.backoffCnt - 1 }
        else { s with sched := rest })
    ∧ (s.macState = .backoff →
      step { s with sched := .sequencer :: rest } = .next
        (if s.backoffCnt = 0 then { s with sched := rest, attempt := s.attempt + 1, macState := .sense }
        else { s with sched := rest }))
    ∧ ((s.macState = .idle ∨ s.macState = .success ∨ s.macState = .giveUp) →
      step { s with sched := .sequencer :: rest } = .next { s with sched := rest })

/-- R235: no step of the sequencer and no tick reads `st.emu_en`, and none writes it. -/
def Obligations.FrameInFlightIgnoresEmuFlag : Prop :=
  ∀ (s : State) (flag : Bool) (turn : Turn) (t : State), (turn = .sequencer ∨ turn = .tick) →
    runTurn turn s = .next t →
    t.emuEn = s.emuEn ∧ runTurn turn { s with emuEn := flag } = .next { t with emuEn := flag }

/-! ### The whole machine -/

/-- R36 at reset. -/
def Obligations.InvAtReset : Prop := Inv State.reset

/-- R36, R223, R226: every transition of every agent keeps the invariants. -/
def Obligations.InvKeptByEveryTransition : Prop := ∀ s t : State, Inv s → step s = .next t → Inv t

/-- R210: "No other transition exists." -/
def Obligations.OnlyTheTransitionsOfR210 : Prop :=
  ∀ s t : State, step s = .next t → t.macState ≠ s.macState →
    (s.macState, t.macState) ∈
      [(.idle, .sense), (.success, .sense), (.giveUp, .sense), (.sense, .giveUp), (.sense, .backoff),
        (.sense, .transmit), (.transmit, .collided), (.transmit, .success), (.collided, .backoff), (.backoff, .sense)]
    ∨ (s.nextTurn = .reset ∧ t.macState = .idle)

/-- R38: apart from reset, which transitions write each of the nine fields, and what: `st.rxb` a delivery; `st.emu_en`
`MAC.SET_EMU`; `st.txf` a `MAC.SEND` accepted in emulation mode, as the five fields that it clears or starts;
`st.mac_state`, `st.attempt`, `st.tx_idx`, `st.backoff_cnt`, `st.jam_flag` and `st.collision_count` also the steps of the
sequencer in the states that R38's table names, the tick, and `MAC.STATS_RESET`. -/
def Obligations.FieldsHaveTheirWriters : Prop :=
  ∀ s t : State, step s = .next t → s.nextTurn ≠ .reset →
    (t.rxb ≠ s.rxb → (∃ c, s.nextTurn = .channel c) ∨ ∃ p c, s.nextTurn = .host p ∧ decode p = .ok (.rxDeliver c))
    ∧ (t.emuEn ≠ s.emuEn → ∃ p a, s.nextTurn = .host p ∧ decode p = .ok (.macSetEmu a) ∧ (t.emuEn = true ↔ a = 1))
    ∧ (t.txf ≠ s.txf → ∃ p, s.nextTurn = .host p ∧ decode p = .ok (.macSend t.txf) ∧ s.emuEn = true)
    ∧ (t.macState ≠ s.macState →
        s.nextTurn = .sequencer
        ∨ ∃ p w, s.nextTurn = .host p ∧ decode p = .ok (.macSend w) ∧ s.emuEn = true ∧ t.macState = .sense)
    ∧ (t.attempt ≠ s.attempt →
        (s.nextTurn = .sequencer ∧ s.macState = .backoff ∧ s.backoffCnt = 0 ∧ t.attempt = s.attempt + 1)
        ∨ ∃ p w, s.nextTurn = .host p ∧ decode p = .ok (.macSend w) ∧ s.emuEn = true ∧ t.attempt = 0)
    ∧ (t.txIdx ≠ s.txIdx →
        (s.nextTurn = .sequencer ∧ s.macState = .sense ∧ t.macState = .transmit ∧ t.txIdx = 0)
        ∨ (s.nextTurn = .sequencer ∧ s.macState = .transmit ∧ t.txIdx = s.txIdx + 1)
        ∨ ∃ p w, s.nextTurn = .host p ∧ decode p = .ok (.macSend w) ∧ s.emuEn = true ∧ t.txIdx = 0)
    ∧ (t.backoffCnt ≠ s.backoffCnt →
        (s.nextTurn = .sequencer ∧ (s.macState = .sense ∨ s.macState = .collided) ∧ t.macState = .backoff)
        ∨ (s.nextTurn = .tick ∧ s.macState = .backoff ∧ t.backoffCnt.toNat + 1 = s.backoffCnt.toNat)
        ∨ ∃ p w, s.nextTurn = .host p ∧ decode p = .ok (.macSend w) ∧ s.emuEn = true ∧ t.backoffCnt = 0)
    ∧ (t.jamFlag ≠ s.jamFlag →
        (s.nextTurn = .sequencer ∧ s.macState = .collided ∧ t.jamFlag = true)
        ∨ (∃ p w, s.nextTurn = .host p ∧ decode p = .ok (.macSend w) ∧ s.emuEn = true ∧ t.jamFlag = false)
        ∨ ∃ p, s.nextTurn = .host p ∧ decode p = .ok .macStatsReset ∧ t.jamFlag = false)
    ∧ (t.collisionCount ≠ s.collisionCount →
        (s.nextTurn = .sequencer ∧ s.macState = .collided ∧ t.collisionCount = s.collisionCount + 1)
        ∨ ∃ p, s.nextTurn = .host p ∧ decode p = .ok .macStatsReset ∧ t.collisionCount = 0)

/-- R14, R16, R281, R283: no transition, reset included, takes a byte off the transmit trace or an event off the event
trace, and none writes a parameter. -/
def Obligations.TracesOnlyGrow : Prop :=
  ∀ s t : State, step s = .next t →
    s.txTrace <+: t.txTrace ∧ s.evTrace <+: t.evTrace ∧ t.params = s.params

/-- R223, R231: a frame that meets no busy medium, no collision and no write failure goes out whole, byte by byte, and
ends in `SUCCESS`.
Which agent moves when no turn is scheduled is the model's choice (log entry 2), as is
the list of answers (log entry 3). -/
def Obligations.UncontendedFrameGoesOut : Prop :=
  ∀ (s : State) (rest : List Nat), s.macState = .sense → s.attempt.toNat < 16 → 1 ≤ s.txf.length →
    s.txf.length ≤ 138 → s.sched = [] →
    s.draws = 0 :: ((List.replicate s.txf.length [0, 1]).flatten ++ rest) →
    runCore (s.txf.length + 1) s = .next
      { s with
        macState := .success, txIdx := BitVec.ofNat 8 s.txf.length, draws := rest
        txTrace := s.txTrace ++ s.txf, evTrace := s.evTrace ++ [.txDone true] }

/-- R221, R225, R226: a medium that is busy at all 16 senses leads to `GIVE_UP` with nothing on the channel, no jam
signal and no collision counted.
Which agent moves when no turn is scheduled is the model's choice (log entry 2), as is the list
of answers (log entry 3). -/
def Obligations.BusyMediumGivesUp : Prop :=
  ∀ (s : State) (rest : List Nat), s.macState = .sense → s.attempt = 0 → s.backoffCnt = 0 → s.sched = [] →
    s.draws = (List.replicate 16 [1, 0]).flatten ++ rest →
    runCore 33 s = .next
      { s with
        macState := .giveUp, attempt := 16, draws := rest
        evTrace := s.evTrace ++ ((List.range 16).map fun j => .mediumBusy (BitVec.ofNat 5 j)) ++ [.txDone false] }

/-- R229: left to the sequencer and the slot timer, a frame of `N` bytes in flight always ends in `SUCCESS` or `GIVE_UP`,
whatever the environment draws: at most `16 * (N + 3) + 1` sequencer steps and 7151 ticks.
Which agent moves when no turn is scheduled is the model's choice
(log entry 2). -/
def Obligations.MacTerminates : Prop :=
  ∀ s : State, Inv s → s.sched = [] → s.macState.busy = true →
    ∃ n ≤ 16 * (s.txf.length + 3) + 1 + 7151, ∃ t,
      runCore n s = .next t ∧ (t.macState = .success ∨ t.macState = .giveUp)

/-! ### The host's procedure -/

/-- R172: `TX.MESSAGE` beside HSB, no other host sending. Whatever the environment draws and however the procedure's
moves fall between HSB's transitions, the MAC is quiet whenever a frame's turn to be sent comes. With one transition of
HSB before each of its moves, and nothing scheduled, the procedure comes to its end: as many waits as frames, each
ended, in emulation mode, by `SUCCESS` (3) or `GIVE_UP` (6). In bypass mode with a channel that accepts, for every
pattern of moves that holds enough moves of the procedure, the frames go out whole and in order; `TxDone(1)` for each
are the only events where no other agent delivers.
How a procedure's moves fall between transitions is log entry 20, that the message goes on after an error status of
`MAC.SEND` log entry 21, that HSB moves when nothing is scheduled log entry 2, the list of answers log entry 3. -/
def Obligations.TxMessageWaitsForQuiet : Prop :=
  (∀ (m : Bytes) (s : State) (moves : List HostMove) (h : HostRun) (w : Bytes) (rest : List HostAction),
    (s.macState = .idle ∨ s.macState = .success ∨ s.macState = .giveUp) → (∀ p, .host p ∉ s.sched) →
    (txMessage m s).run moves = .next h → h.todo = .issue (.macSend w) :: rest →
    h.state.macState = .idle ∨ h.state.macState = .success ∨ h.state.macState = .giveUp)
  ∧ (∀ (m : Bytes) (s : State), m.length ≤ 16320 → Inv s → s.sched = [] →
    (s.macState = .idle ∨ s.macState = .success ∨ s.macState = .giveUp) →
    ∃ (n : Nat) (h : HostRun),
      (txMessage m s).run (List.replicate n [HostMove.other, HostMove.procedure]).flatten = .next h
        ∧ h.todo = [] ∧ h.log.length = (segment m).length
        ∧ (s.emuEn = true → ∀ code ∈ h.log, code = 3 ∨ code = 6))
  ∧ ∀ (m : Bytes) (s : State) (moves : List HostMove) (rest : List Nat), m.length ≤ 16320 →
    (s.macState = .idle ∨ s.macState = .success ∨ s.macState = .giveUp) → s.emuEn = false →
    s.draws = List.replicate (segment m).length 1 ++ rest →
    1 + 4 * (segment m).length ≤ moves.count .procedure → ((∀ p, .host p ∉ s.sched) ∨ .other ∉ moves) →
    ∃ h : HostRun,
      (txMessage m s).run moves = .next h
        ∧ h.todo = [] ∧ h.state.draws = rest ∧ h.state.txTrace = s.txTrace ++ (segment m).flatMap wireFrame
        ∧ (s.sched = [] ∨ .other ∉ moves →
          h.state.evTrace = s.evTrace ++ List.replicate (segment m).length (.txDone true))
end

