-- ==== Sys2Proof/Laws/Decode.lean ====
section
/-! SUPPORT. Small lemmas of the decoder's parts: the opcode map read both ways, the length fields, and one lemma per
operand format that says what its parser accepts. -/

namespace Sys2Proof

theorem Opcode.ofByte_code (o : Opcode) : Opcode.ofByte o.code = some o := by cases o <;> decide

theorem Opcode.mem_all (o : Opcode) : o ∈ Opcode.all := by cases o <;> decide

theorem Opcode.code_of_ofByte {b : Byte} {o : Opcode} (h : Opcode.ofByte b = some o) : o.code = b := by
  simpa using List.find?_some h

theorem Opcode.ofByte_eq_none {b : Byte} (h : ∀ o : Opcode, o.code ≠ b) : Opcode.ofByte b = none := by
  simpa [Opcode.ofByte] using fun o _ => h o

theorem u16_be16 {v : Nat} (h : v < 65536) : u16 (BitVec.ofNat 8 (v / 256)) (BitVec.ofNat 8 v) = v := by
  simp only [u16, BitVec.toNat_ofNat]; omega

theorem be16_u16 (hi lo : Byte) : be16 (u16 hi lo) = [hi, lo] := by
  have := hi.isLt; have := lo.isLt
  simp only [be16, u16, List.cons.injEq, and_true]
  constructor <;> apply BitVec.eq_of_toNat_eq <;> simp only [BitVec.toNat_ofNat] <;> omega

theorem u16_lt (hi lo : Byte) : u16 hi lo < 65536 := by
  have := hi.isLt; have := lo.isLt
  simp only [u16]; omega

theorem len8_toNat {b : Bytes} (h : b.length < 256) : (len8 b).toNat = b.length := by
  simp only [len8, BitVec.toNat_ofNat]; omega

/-- Format `S` accepts exactly the encoding of its bytes. -/
theorem parseS_iff {op : Bytes → Instr} {c : Bytes} {i : Instr} :
    parseS op c = some i ↔ ∃ data : Bytes, data.length < 65536 ∧ c = encodeS data ∧ i = op data := by
  constructor
  · intro h
    rcases c with _ | ⟨hi, _ | ⟨lo, data⟩⟩
    · simp [parseS] at h
    · simp [parseS] at h
    · simp only [parseS] at h
      split at h
      · rename_i hl
        refine ⟨data, hl ▸ u16_lt hi lo, ?_, (by simpa using h.symm)⟩
        simp [encodeS, hl, be16_u16]
      · simp at h
  · rintro ⟨data, hl, rfl, rfl⟩
    simp [encodeS, be16, parseS, u16_be16 hl]

/-- Format `P` accepts exactly the encoding of its payload. -/
theorem parseP_iff {op : Bytes → Instr} {c : Bytes} {i : Instr} :
    parseP op c = some i ↔ ∃ payload : Bytes, payload.length < 256 ∧ c = encodeP payload ∧ i = op payload := by
  constructor
  · intro h
    rcases c with _ | ⟨n, payload⟩
    · simp [parseP] at h
    · simp only [parseP] at h
      split at h
      · rename_i hl
        refine ⟨payload, hl ▸ n.isLt, ?_, (by simpa using h.symm)⟩
        simp [encodeP, len8, hl]
      · simp at h
  · rintro ⟨payload, hl, rfl, rfl⟩
    simp [encodeP, parseP, len8_toNat hl]

/-- Format `PF` accepts exactly the encoding of its payload and FCS. -/
theorem parsePF_iff {op : Bytes → Bytes → Instr} {c : Bytes} {i : Instr} :
    parsePF op c = some i ↔ ∃ payload fcs : Bytes,
      payload.length < 256 ∧ fcs.length < 256 ∧ c = encodePF payload fcs ∧ i = op payload fcs := by
  constructor
  · intro h
    rcases c with _ | ⟨n, rest⟩
    · simp [parsePF] at h
    · simp only [parsePF] at h
      rcases hd : rest.drop n.toNat with _ | ⟨f, fcs⟩
      · simp [hd] at h
      · simp only [hd] at h
        split at h
        · rename_i hl
          have hlen : n.toNat < rest.length := by
            have := congrArg List.length hd
            simp only [List.length_drop, List.length_cons] at this; omega
          have htake : (rest.take n.toNat).length = n.toNat := by simp; omega
          refine ⟨rest.take n.toNat, fcs, by rw [htake]; exact n.isLt, by rw [hl]; exact f.isLt, ?_, (by simpa using h.symm)⟩
          have hr : rest = rest.take n.toNat ++ f :: fcs := by rw [← hd, List.take_append_drop]
          simp only [encodePF, encodeP, len8, htake, hl, BitVec.ofNat_toNat, BitVec.setWidth_eq, List.cons_append]
          rw [← hr]
        · simp at h
  · rintro ⟨payload, fcs, hp, hf, rfl, rfl⟩
    simp [encodePF, encodeP, parsePF, len8_toNat hp, len8_toNat hf]

/-- Format `FR` accepts exactly the encoding of its four fields. -/
theorem parseFR_iff {op : Byte → Byte → Bytes → Bytes → Instr} {c : Bytes} {i : Instr} :
    parseFR op c = some i ↔ ∃ (total sequence : Byte) (payload fcs : Bytes),
      payload.length < 256 ∧ fcs.length < 256 ∧ c = total :: sequence :: encodePF payload fcs
        ∧ i = op total sequence payload fcs := by
  rcases c with _ | ⟨total, _ | ⟨sequence, rest⟩⟩
  · simp [parseFR]
  · simp [parseFR]
  · simp only [parseFR, parsePF_iff, List.cons.injEq]
    constructor
    · rintro ⟨p, f, hp, hf, rfl, rfl⟩; exact ⟨total, sequence, p, f, hp, hf, ⟨rfl, rfl, rfl⟩, rfl⟩
    · rintro ⟨_, _, p, f, hp, hf, ⟨rfl, rfl, rfl⟩, rfl⟩; exact ⟨p, f, hp, hf, rfl, rfl⟩

theorem parseB_iff {op : Byte → Instr} {c : Bytes} {i : Instr} :
    parseB op c = some i ↔ ∃ a : Byte, c = [a] ∧ i = op a := by
  rcases c with _ | ⟨a, _ | ⟨b, rest⟩⟩ <;> simp [parseB, eq_comm]

theorem parseN_iff {op : Instr} {c : Bytes} {i : Instr} : parseN op c = some i ↔ c = [] ∧ i = op := by
  rcases c with _ | ⟨a, rest⟩ <;> simp [parseN, eq_comm]

/-- What the operand parser accepts, for every row of the opcode map: the operand bytes of an operation of that row. -/
theorem parseOperands_iff {o : Opcode} {c : Bytes} {i : Instr} :
    parseOperands o c = some i ↔ i.encodable = true ∧ i.opcode = o ∧ i.operandBytes = c := by
  cases o <;>
    simp only [parseOperands, parseB_iff, parseN_iff, parseS_iff, parseP_iff, parsePF_iff, parseFR_iff] <;>
    (constructor
     · intro h
       first
       | (obtain ⟨rfl, rfl⟩ := h; simp [Instr.encodable, Instr.opcode, Instr.operandBytes])
       | (obtain ⟨a, rfl, rfl⟩ := h; simp [Instr.encodable, Instr.opcode, Instr.operandBytes])
       | (obtain ⟨a, h1, rfl, rfl⟩ := h; simp [Instr.encodable, Instr.opcode, Instr.operandBytes, h1])
       | (obtain ⟨a, b, h1, h2, rfl, rfl⟩ := h; simp [Instr.encodable, Instr.opcode, Instr.operandBytes, h1, h2])
       | (obtain ⟨a, b, c, d, h1, h2, rfl, rfl⟩ := h
          simp [Instr.encodable, Instr.opcode, Instr.operandBytes, h1, h2])
     · rintro ⟨h1, h2, rfl⟩
       cases i <;> simp_all [Instr.encodable, Instr.opcode, Instr.operandBytes])

/-- An operation whose operands are in range fits a packet. -/
theorem Instr.encodable_of_wellFormed {i : Instr} (h : i.wellFormed = true) : i.encodable = true := by
  cases i <;> simp only [Instr.wellFormed, Instr.encodable, Bool.and_eq_true, decide_eq_true_eq] at * <;> omega

end Sys2Proof
end

