-- ==== Sys2Proof/Laws/State.lean ====
section
/-! SUPPORT. One lemma per field per update of State: what each shared update does to each field, true by definition, so
that no later proof unfolds a record update. -/

namespace Sys2Proof.Machine.State

variable (s : State)

/-! ### `afterDraw` -/

@[simp] theorem afterDraw_rxb : s.afterDraw.rxb = s.rxb := rfl
@[simp] theorem afterDraw_macState : s.afterDraw.macState = s.macState := rfl
@[simp] theorem afterDraw_attempt : s.afterDraw.attempt = s.attempt := rfl
@[simp] theorem afterDraw_txIdx : s.afterDraw.txIdx = s.txIdx := rfl
@[simp] theorem afterDraw_backoffCnt : s.afterDraw.backoffCnt = s.backoffCnt := rfl
@[simp] theorem afterDraw_txf : s.afterDraw.txf = s.txf := rfl
@[simp] theorem afterDraw_emuEn : s.afterDraw.emuEn = s.emuEn := rfl
@[simp] theorem afterDraw_jamFlag : s.afterDraw.jamFlag = s.jamFlag := rfl
@[simp] theorem afterDraw_collisionCount : s.afterDraw.collisionCount = s.collisionCount := rfl
@[simp] theorem afterDraw_txTrace : s.afterDraw.txTrace = s.txTrace := rfl
@[simp] theorem afterDraw_evTrace : s.afterDraw.evTrace = s.evTrace := rfl
@[simp] theorem afterDraw_response : s.afterDraw.response = s.response := rfl
@[simp] theorem afterDraw_params : s.afterDraw.params = s.params := rfl
@[simp] theorem afterDraw_sched : s.afterDraw.sched = s.sched := rfl
@[simp] theorem afterDraw_draws : s.afterDraw.draws = s.draws.tail := rfl
@[simp] theorem afterDraw_drawCnt : s.afterDraw.drawCnt = if s.draws.isEmpty then s.drawCnt + 1 else s.drawCnt := rfl

/-! ### `emit` -/

@[simp] theorem emit_rxb (e : Event) : (s.emit e).rxb = s.rxb := rfl
@[simp] theorem emit_macState (e : Event) : (s.emit e).macState = s.macState := rfl
@[simp] theorem emit_attempt (e : Event) : (s.emit e).attempt = s.attempt := rfl
@[simp] theorem emit_txIdx (e : Event) : (s.emit e).txIdx = s.txIdx := rfl
@[simp] theorem emit_backoffCnt (e : Event) : (s.emit e).backoffCnt = s.backoffCnt := rfl
@[simp] theorem emit_txf (e : Event) : (s.emit e).txf = s.txf := rfl
@[simp] theorem emit_emuEn (e : Event) : (s.emit e).emuEn = s.emuEn := rfl
@[simp] theorem emit_jamFlag (e : Event) : (s.emit e).jamFlag = s.jamFlag := rfl
@[simp] theorem emit_collisionCount (e : Event) : (s.emit e).collisionCount = s.collisionCount := rfl
@[simp] theorem emit_txTrace (e : Event) : (s.emit e).txTrace = s.txTrace := rfl
@[simp] theorem emit_evTrace (e : Event) : (s.emit e).evTrace = s.evTrace ++ [e] := rfl
@[simp] theorem emit_response (e : Event) : (s.emit e).response = s.response := rfl
@[simp] theorem emit_params (e : Event) : (s.emit e).params = s.params := rfl
@[simp] theorem emit_sched (e : Event) : (s.emit e).sched = s.sched := rfl
@[simp] theorem emit_draws (e : Event) : (s.emit e).draws = s.draws := rfl
@[simp] theorem emit_drawCnt (e : Event) : (s.emit e).drawCnt = s.drawCnt := rfl

/-! ### `chanWrite` -/

@[simp] theorem chanWrite_rxb (b : Bytes) : (s.chanWrite b).rxb = s.rxb := rfl
@[simp] theorem chanWrite_macState (b : Bytes) : (s.chanWrite b).macState = s.macState := rfl
@[simp] theorem chanWrite_attempt (b : Bytes) : (s.chanWrite b).attempt = s.attempt := rfl
@[simp] theorem chanWrite_txIdx (b : Bytes) : (s.chanWrite b).txIdx = s.txIdx := rfl
@[simp] theorem chanWrite_backoffCnt (b : Bytes) : (s.chanWrite b).backoffCnt = s.backoffCnt := rfl
@[simp] theorem chanWrite_txf (b : Bytes) : (s.chanWrite b).txf = s.txf := rfl
@[simp] theorem chanWrite_emuEn (b : Bytes) : (s.chanWrite b).emuEn = s.emuEn := rfl
@[simp] theorem chanWrite_jamFlag (b : Bytes) : (s.chanWrite b).jamFlag = s.jamFlag := rfl
@[simp] theorem chanWrite_collisionCount (b : Bytes) : (s.chanWrite b).collisionCount = s.collisionCount := rfl
@[simp] theorem chanWrite_txTrace (b : Bytes) : (s.chanWrite b).txTrace = if s.chanOk then s.txTrace ++ b else s.txTrace := rfl
@[simp] theorem chanWrite_evTrace (b : Bytes) : (s.chanWrite b).evTrace = s.evTrace := rfl
@[simp] theorem chanWrite_response (b : Bytes) : (s.chanWrite b).response = s.response := rfl
@[simp] theorem chanWrite_params (b : Bytes) : (s.chanWrite b).params = s.params := rfl
@[simp] theorem chanWrite_sched (b : Bytes) : (s.chanWrite b).sched = s.sched := rfl
@[simp] theorem chanWrite_draws (b : Bytes) : (s.chanWrite b).draws = s.draws.tail := rfl
@[simp] theorem chanWrite_drawCnt (b : Bytes) : (s.chanWrite b).drawCnt = if s.draws.isEmpty then s.drawCnt + 1 else s.drawCnt := rfl

/-! ### `answer` -/

@[simp] theorem answer_rxb (b : Bytes) : (s.answer b).rxb = s.rxb := rfl
@[simp] theorem answer_macState (b : Bytes) : (s.answer b).macState = s.macState := rfl
@[simp] theorem answer_attempt (b : Bytes) : (s.answer b).attempt = s.attempt := rfl
@[simp] theorem answer_txIdx (b : Bytes) : (s.answer b).txIdx = s.txIdx := rfl
@[simp] theorem answer_backoffCnt (b : Bytes) : (s.answer b).backoffCnt = s.backoffCnt := rfl
@[simp] theorem answer_txf (b : Bytes) : (s.answer b).txf = s.txf := rfl
@[simp] theorem answer_emuEn (b : Bytes) : (s.answer b).emuEn = s.emuEn := rfl
@[simp] theorem answer_jamFlag (b : Bytes) : (s.answer b).jamFlag = s.jamFlag := rfl
@[simp] theorem answer_collisionCount (b : Bytes) : (s.answer b).collisionCount = s.collisionCount := rfl
@[simp] theorem answer_txTrace (b : Bytes) : (s.answer b).txTrace = s.txTrace := rfl
@[simp] theorem answer_evTrace (b : Bytes) : (s.answer b).evTrace = s.evTrace := rfl
@[simp] theorem answer_response (b : Bytes) : (s.answer b).response = 0x00 :: b := rfl
@[simp] theorem answer_params (b : Bytes) : (s.answer b).params = s.params := rfl
@[simp] theorem answer_sched (b : Bytes) : (s.answer b).sched = s.sched := rfl
@[simp] theorem answer_draws (b : Bytes) : (s.answer b).draws = s.draws := rfl
@[simp] theorem answer_drawCnt (b : Bytes) : (s.answer b).drawCnt = s.drawCnt := rfl

/-! ### `raise` -/

@[simp] theorem raise_rxb (e : Status) : (s.raise e).rxb = s.rxb := rfl
@[simp] theorem raise_macState (e : Status) : (s.raise e).macState = s.macState := rfl
@[simp] theorem raise_attempt (e : Status) : (s.raise e).attempt = s.attempt := rfl
@[simp] theorem raise_txIdx (e : Status) : (s.raise e).txIdx = s.txIdx := rfl
@[simp] theorem raise_backoffCnt (e : Status) : (s.raise e).backoffCnt = s.backoffCnt := rfl
@[simp] theorem raise_txf (e : Status) : (s.raise e).txf = s.txf := rfl
@[simp] theorem raise_emuEn (e : Status) : (s.raise e).emuEn = s.emuEn := rfl
@[simp] theorem raise_jamFlag (e : Status) : (s.raise e).jamFlag = s.jamFlag := rfl
@[simp] theorem raise_collisionCount (e : Status) : (s.raise e).collisionCount = s.collisionCount := rfl
@[simp] theorem raise_txTrace (e : Status) : (s.raise e).txTrace = s.txTrace := rfl
@[simp] theorem raise_evTrace (e : Status) : (s.raise e).evTrace = s.evTrace := rfl
@[simp] theorem raise_response (e : Status) : (s.raise e).response = [e.code] := rfl
@[simp] theorem raise_params (e : Status) : (s.raise e).params = s.params := rfl
@[simp] theorem raise_sched (e : Status) : (s.raise e).sched = s.sched := rfl
@[simp] theorem raise_draws (e : Status) : (s.raise e).draws = s.draws := rfl
@[simp] theorem raise_drawCnt (e : Status) : (s.raise e).drawCnt = s.drawCnt := rfl

/-! ### `setEmu` -/

@[simp] theorem setEmu_rxb (a : Bool) : (s.setEmu a).rxb = s.rxb := rfl
@[simp] theorem setEmu_macState (a : Bool) : (s.setEmu a).macState = s.macState := rfl
@[simp] theorem setEmu_attempt (a : Bool) : (s.setEmu a).attempt = s.attempt := rfl
@[simp] theorem setEmu_txIdx (a : Bool) : (s.setEmu a).txIdx = s.txIdx := rfl
@[simp] theorem setEmu_backoffCnt (a : Bool) : (s.setEmu a).backoffCnt = s.backoffCnt := rfl
@[simp] theorem setEmu_txf (a : Bool) : (s.setEmu a).txf = s.txf := rfl
@[simp] theorem setEmu_emuEn (a : Bool) : (s.setEmu a).emuEn = a := rfl
@[simp] theorem setEmu_jamFlag (a : Bool) : (s.setEmu a).jamFlag = s.jamFlag := rfl
@[simp] theorem setEmu_collisionCount (a : Bool) : (s.setEmu a).collisionCount = s.collisionCount := rfl
@[simp] theorem setEmu_txTrace (a : Bool) : (s.setEmu a).txTrace = s.txTrace := rfl
@[simp] theorem setEmu_evTrace (a : Bool) : (s.setEmu a).evTrace = s.evTrace := rfl
@[simp] theorem setEmu_response (a : Bool) : (s.setEmu a).response = s.response := rfl
@[simp] theorem setEmu_params (a : Bool) : (s.setEmu a).params = s.params := rfl
@[simp] theorem setEmu_sched (a : Bool) : (s.setEmu a).sched = s.sched := rfl
@[simp] theorem setEmu_draws (a : Bool) : (s.setEmu a).draws = s.draws := rfl
@[simp] theorem setEmu_drawCnt (a : Bool) : (s.setEmu a).drawCnt = s.drawCnt := rfl

/-! ### `setJam` -/

@[simp] theorem setJam_rxb : s.setJam.rxb = s.rxb := rfl
@[simp] theorem setJam_macState : s.setJam.macState = s.macState := rfl
@[simp] theorem setJam_attempt : s.setJam.attempt = s.attempt := rfl
@[simp] theorem setJam_txIdx : s.setJam.txIdx = s.txIdx := rfl
@[simp] theorem setJam_backoffCnt : s.setJam.backoffCnt = s.backoffCnt := rfl
@[simp] theorem setJam_txf : s.setJam.txf = s.txf := rfl
@[simp] theorem setJam_emuEn : s.setJam.emuEn = s.emuEn := rfl
@[simp] theorem setJam_jamFlag : s.setJam.jamFlag = true := rfl
@[simp] theorem setJam_collisionCount : s.setJam.collisionCount = s.collisionCount := rfl
@[simp] theorem setJam_txTrace : s.setJam.txTrace = s.txTrace := rfl
@[simp] theorem setJam_evTrace : s.setJam.evTrace = s.evTrace := rfl
@[simp] theorem setJam_response : s.setJam.response = s.response := rfl
@[simp] theorem setJam_params : s.setJam.params = s.params := rfl
@[simp] theorem setJam_sched : s.setJam.sched = s.sched := rfl
@[simp] theorem setJam_draws : s.setJam.draws = s.draws := rfl
@[simp] theorem setJam_drawCnt : s.setJam.drawCnt = s.drawCnt := rfl

/-! ### `clearJam` -/

@[simp] theorem clearJam_rxb : s.clearJam.rxb = s.rxb := rfl
@[simp] theorem clearJam_macState : s.clearJam.macState = s.macState := rfl
@[simp] theorem clearJam_attempt : s.clearJam.attempt = s.attempt := rfl
@[simp] theorem clearJam_txIdx : s.clearJam.txIdx = s.txIdx := rfl
@[simp] theorem clearJam_backoffCnt : s.clearJam.backoffCnt = s.backoffCnt := rfl
@[simp] theorem clearJam_txf : s.clearJam.txf = s.txf := rfl
@[simp] theorem clearJam_emuEn : s.clearJam.emuEn = s.emuEn := rfl
@[simp] theorem clearJam_jamFlag : s.clearJam.jamFlag = false := rfl
@[simp] theorem clearJam_collisionCount : s.clearJam.collisionCount = s.collisionCount := rfl
@[simp] theorem clearJam_txTrace : s.clearJam.txTrace = s.txTrace := rfl
@[simp] theorem clearJam_evTrace : s.clearJam.evTrace = s.evTrace := rfl
@[simp] theorem clearJam_response : s.clearJam.response = s.response := rfl
@[simp] theorem clearJam_params : s.clearJam.params = s.params := rfl
@[simp] theorem clearJam_sched : s.clearJam.sched = s.sched := rfl
@[simp] theorem clearJam_draws : s.clearJam.draws = s.draws := rfl
@[simp] theorem clearJam_drawCnt : s.clearJam.drawCnt = s.drawCnt := rfl

/-! ### `countCollision` -/

@[simp] theorem countCollision_rxb : s.countCollision.rxb = s.rxb := rfl
@[simp] theorem countCollision_macState : s.countCollision.macState = s.macState := rfl
@[simp] theorem countCollision_attempt : s.countCollision.attempt = s.attempt := rfl
@[simp] theorem countCollision_txIdx : s.countCollision.txIdx = s.txIdx := rfl
@[simp] theorem countCollision_backoffCnt : s.countCollision.backoffCnt = s.backoffCnt := rfl
@[simp] theorem countCollision_txf : s.countCollision.txf = s.txf := rfl
@[simp] theorem countCollision_emuEn : s.countCollision.emuEn = s.emuEn := rfl
@[simp] theorem countCollision_jamFlag : s.countCollision.jamFlag = s.jamFlag := rfl
@[simp] theorem countCollision_collisionCount : s.countCollision.collisionCount = s.collisionCount + 1 := rfl
@[simp] theorem countCollision_txTrace : s.countCollision.txTrace = s.txTrace := rfl
@[simp] theorem countCollision_evTrace : s.countCollision.evTrace = s.evTrace := rfl
@[simp] theorem countCollision_response : s.countCollision.response = s.response := rfl
@[simp] theorem countCollision_params : s.countCollision.params = s.params := rfl
@[simp] theorem countCollision_sched : s.countCollision.sched = s.sched := rfl
@[simp] theorem countCollision_draws : s.countCollision.draws = s.draws := rfl
@[simp] theorem countCollision_drawCnt : s.countCollision.drawCnt = s.drawCnt := rfl

/-! ### `clearCollisions` -/

@[simp] theorem clearCollisions_rxb : s.clearCollisions.rxb = s.rxb := rfl
@[simp] theorem clearCollisions_macState : s.clearCollisions.macState = s.macState := rfl
@[simp] theorem clearCollisions_attempt : s.clearCollisions.attempt = s.attempt := rfl
@[simp] theorem clearCollisions_txIdx : s.clearCollisions.txIdx = s.txIdx := rfl
@[simp] theorem clearCollisions_backoffCnt : s.clearCollisions.backoffCnt = s.backoffCnt := rfl
@[simp] theorem clearCollisions_txf : s.clearCollisions.txf = s.txf := rfl
@[simp] theorem clearCollisions_emuEn : s.clearCollisions.emuEn = s.emuEn := rfl
@[simp] theorem clearCollisions_jamFlag : s.clearCollisions.jamFlag = s.jamFlag := rfl
@[simp] theorem clearCollisions_collisionCount : s.clearCollisions.collisionCount = 0 := rfl
@[simp] theorem clearCollisions_txTrace : s.clearCollisions.txTrace = s.txTrace := rfl
@[simp] theorem clearCollisions_evTrace : s.clearCollisions.evTrace = s.evTrace := rfl
@[simp] theorem clearCollisions_response : s.clearCollisions.response = s.response := rfl
@[simp] theorem clearCollisions_params : s.clearCollisions.params = s.params := rfl
@[simp] theorem clearCollisions_sched : s.clearCollisions.sched = s.sched := rfl
@[simp] theorem clearCollisions_draws : s.clearCollisions.draws = s.draws := rfl
@[simp] theorem clearCollisions_drawCnt : s.clearCollisions.drawCnt = s.drawCnt := rfl

/-! ### `latch` -/

@[simp] theorem latch_rxb (w : Bytes) : (s.latch w).rxb = s.rxb := rfl
@[simp] theorem latch_macState (w : Bytes) : (s.latch w).macState = .sense := rfl
@[simp] theorem latch_attempt (w : Bytes) : (s.latch w).attempt = 0 := rfl
@[simp] theorem latch_txIdx (w : Bytes) : (s.latch w).txIdx = 0 := rfl
@[simp] theorem latch_backoffCnt (w : Bytes) : (s.latch w).backoffCnt = 0 := rfl
@[simp] theorem latch_txf (w : Bytes) : (s.latch w).txf = w := rfl
@[simp] theorem latch_emuEn (w : Bytes) : (s.latch w).emuEn = s.emuEn := rfl
@[simp] theorem latch_jamFlag (w : Bytes) : (s.latch w).jamFlag = false := rfl
@[simp] theorem latch_collisionCount (w : Bytes) : (s.latch w).collisionCount = s.collisionCount := rfl
@[simp] theorem latch_txTrace (w : Bytes) : (s.latch w).txTrace = s.txTrace := rfl
@[simp] theorem latch_evTrace (w : Bytes) : (s.latch w).evTrace = s.evTrace := rfl
@[simp] theorem latch_response (w : Bytes) : (s.latch w).response = s.response := rfl
@[simp] theorem latch_params (w : Bytes) : (s.latch w).params = s.params := rfl
@[simp] theorem latch_sched (w : Bytes) : (s.latch w).sched = s.sched := rfl
@[simp] theorem latch_draws (w : Bytes) : (s.latch w).draws = s.draws := rfl
@[simp] theorem latch_drawCnt (w : Bytes) : (s.latch w).drawCnt = s.drawCnt := rfl

/-! ### `enterBackoff` -/

@[simp] theorem enterBackoff_rxb : s.enterBackoff.rxb = s.rxb := rfl
@[simp] theorem enterBackoff_macState : s.enterBackoff.macState = .backoff := rfl
@[simp] theorem enterBackoff_attempt : s.enterBackoff.attempt = s.attempt := rfl
@[simp] theorem enterBackoff_txIdx : s.enterBackoff.txIdx = s.txIdx := rfl
@[simp] theorem enterBackoff_backoffCnt : s.enterBackoff.backoffCnt = BitVec.ofNat 10 (s.drawValue (bmax s.attempt.toNat)) := rfl
@[simp] theorem enterBackoff_txf : s.enterBackoff.txf = s.txf := rfl
@[simp] theorem enterBackoff_emuEn : s.enterBackoff.emuEn = s.emuEn := rfl
@[simp] theorem enterBackoff_jamFlag : s.enterBackoff.jamFlag = s.jamFlag := rfl
@[simp] theorem enterBackoff_collisionCount : s.enterBackoff.collisionCount = s.collisionCount := rfl
@[simp] theorem enterBackoff_txTrace : s.enterBackoff.txTrace = s.txTrace := rfl
@[simp] theorem enterBackoff_evTrace : s.enterBackoff.evTrace = s.evTrace := rfl
@[simp] theorem enterBackoff_response : s.enterBackoff.response = s.response := rfl
@[simp] theorem enterBackoff_params : s.enterBackoff.params = s.params := rfl
@[simp] theorem enterBackoff_sched : s.enterBackoff.sched = s.sched := rfl
@[simp] theorem enterBackoff_draws : s.enterBackoff.draws = s.draws.tail := rfl
@[simp] theorem enterBackoff_drawCnt : s.enterBackoff.drawCnt = if s.draws.isEmpty then s.drawCnt + 1 else s.drawCnt := rfl

/-! ### `collide` -/

@[simp] theorem collide_rxb (c : CollisionCause) : (s.collide c).rxb = s.rxb := rfl
@[simp] theorem collide_macState (c : CollisionCause) : (s.collide c).macState = .collided := rfl
@[simp] theorem collide_attempt (c : CollisionCause) : (s.collide c).attempt = s.attempt := rfl
@[simp] theorem collide_txIdx (c : CollisionCause) : (s.collide c).txIdx = s.txIdx := rfl
@[simp] theorem collide_backoffCnt (c : CollisionCause) : (s.collide c).backoffCnt = s.backoffCnt := rfl
@[simp] theorem collide_txf (c : CollisionCause) : (s.collide c).txf = s.txf := rfl
@[simp] theorem collide_emuEn (c : CollisionCause) : (s.collide c).emuEn = s.emuEn := rfl
@[simp] theorem collide_jamFlag (c : CollisionCause) : (s.collide c).jamFlag = s.jamFlag := rfl
@[simp] theorem collide_collisionCount (c : CollisionCause) : (s.collide c).collisionCount = s.collisionCount := rfl
@[simp] theorem collide_txTrace (c : CollisionCause) : (s.collide c).txTrace = s.txTrace := rfl
@[simp] theorem collide_evTrace (c : CollisionCause) : (s.collide c).evTrace = s.evTrace ++ [.collision s.txIdx c] := rfl
@[simp] theorem collide_response (c : CollisionCause) : (s.collide c).response = s.response := rfl
@[simp] theorem collide_params (c : CollisionCause) : (s.collide c).params = s.params := rfl
@[simp] theorem collide_sched (c : CollisionCause) : (s.collide c).sched = s.sched := rfl
@[simp] theorem collide_draws (c : CollisionCause) : (s.collide c).draws = s.draws := rfl
@[simp] theorem collide_drawCnt (c : CollisionCause) : (s.collide c).drawCnt = s.drawCnt := rfl

/-! ### `resetStep` -/

@[simp] theorem resetStep_rxb : s.resetStep.rxb = [] := rfl
@[simp] theorem resetStep_macState : s.resetStep.macState = .idle := rfl
@[simp] theorem resetStep_attempt : s.resetStep.attempt = 0 := rfl
@[simp] theorem resetStep_txIdx : s.resetStep.txIdx = 0 := rfl
@[simp] theorem resetStep_backoffCnt : s.resetStep.backoffCnt = 0 := rfl
@[simp] theorem resetStep_txf : s.resetStep.txf = [] := rfl
@[simp] theorem resetStep_emuEn : s.resetStep.emuEn = false := rfl
@[simp] theorem resetStep_jamFlag : s.resetStep.jamFlag = false := rfl
@[simp] theorem resetStep_collisionCount : s.resetStep.collisionCount = 0 := rfl
@[simp] theorem resetStep_txTrace : s.resetStep.txTrace = s.txTrace := rfl
@[simp] theorem resetStep_evTrace : s.resetStep.evTrace = s.evTrace := rfl
@[simp] theorem resetStep_response : s.resetStep.response = s.response := rfl
@[simp] theorem resetStep_params : s.resetStep.params = s.params := rfl
@[simp] theorem resetStep_sched : s.resetStep.sched = s.sched := rfl
@[simp] theorem resetStep_draws : s.resetStep.draws = s.draws := rfl
@[simp] theorem resetStep_drawCnt : s.resetStep.drawCnt = s.drawCnt := rfl

/-! ### `afterTurn` -/

@[simp] theorem afterTurn_rxb : s.afterTurn.rxb = s.rxb := rfl
@[simp] theorem afterTurn_macState : s.afterTurn.macState = s.macState := rfl
@[simp] theorem afterTurn_attempt : s.afterTurn.attempt = s.attempt := rfl
@[simp] theorem afterTurn_txIdx : s.afterTurn.txIdx = s.txIdx := rfl
@[simp] theorem afterTurn_backoffCnt : s.afterTurn.backoffCnt = s.backoffCnt := rfl
@[simp] theorem afterTurn_txf : s.afterTurn.txf = s.txf := rfl
@[simp] theorem afterTurn_emuEn : s.afterTurn.emuEn = s.emuEn := rfl
@[simp] theorem afterTurn_jamFlag : s.afterTurn.jamFlag = s.jamFlag := rfl
@[simp] theorem afterTurn_collisionCount : s.afterTurn.collisionCount = s.collisionCount := rfl
@[simp] theorem afterTurn_txTrace : s.afterTurn.txTrace = s.txTrace := rfl
@[simp] theorem afterTurn_evTrace : s.afterTurn.evTrace = s.evTrace := rfl
@[simp] theorem afterTurn_response : s.afterTurn.response = s.response := rfl
@[simp] theorem afterTurn_params : s.afterTurn.params = s.params := rfl
@[simp] theorem afterTurn_sched : s.afterTurn.sched = s.sched.tail := rfl
@[simp] theorem afterTurn_draws : s.afterTurn.draws = s.draws := rfl
@[simp] theorem afterTurn_drawCnt : s.afterTurn.drawCnt = s.drawCnt := rfl

end Sys2Proof.Machine.State
end

