-- ==== Sys2Proof/Laws/Ops.lean ====
section
/-! SUPPORT. What each shared operation can do, said once: draws, the channel write, the operand guard, the turns. -/

namespace Sys2Proof.Machine

/-- A draw in `0 .. bound` is in its range, whatever the environment answers (spec/00_scope.md R15). -/
theorem State.drawValue_le (s : State) (bound : Nat) : s.drawValue bound ≤ bound := by
  exact Nat.le_of_lt_succ (Nat.mod_lt _ (Nat.succ_pos bound))

/-- An answer of the environment that is in the range is the value drawn. -/
theorem State.drawValue_of_draws {s : State} {v bound : Nat} {rest : List Nat} (hd : s.draws = v :: rest)
    (hv : v ≤ bound) : s.drawValue bound = v := by
  simp only [State.drawValue, hd, List.head?_cons, Option.getD_some]
  exact Nat.mod_eq_of_lt (by omega)

/-- A draw reads only the answers and the counter. -/
theorem State.drawValue_congr {s t : State} (hd : t.draws = s.draws) (hc : t.drawCnt = s.drawCnt) (bound : Nat) :
    t.drawValue bound = s.drawValue bound := by simp only [State.drawValue, hd, hc]

theorem State.drawBit_congr {s t : State} (hd : t.draws = s.draws) (hc : t.drawCnt = s.drawCnt) :
    t.drawBit = s.drawBit := by simp only [State.drawBit, State.drawValue_congr hd hc]

theorem State.drawBit_eq_true {s : State} : s.drawBit = true ↔ s.drawValue 1 = 1 := by simp [State.drawBit]

theorem State.drawBit_eq_false {s : State} : s.drawBit = false ↔ s.drawValue 1 = 0 := by
  have := s.drawValue_le 1
  simp only [State.drawBit, beq_eq_false_iff_ne]; omega

/-- After a draw that a list of answers gives, the rest of the list is left and nothing else changed. -/
theorem State.afterDraw_of_draws {s : State} {v : Nat} {rest : List Nat} (hd : s.draws = v :: rest) :
    s.afterDraw = { s with draws := rest } := by simp [State.afterDraw, hd]

/-- What a channel write is, by the channel's answer (spec/00_scope.md R14). -/
theorem State.chanWrite_cases (s : State) (b : Bytes) :
    (s.chanOk = true ∧ s.chanWrite b = { s.afterDraw with txTrace := s.txTrace ++ b })
      ∨ (s.chanOk = false ∧ s.chanWrite b = s.afterDraw) := by
  cases h : s.chanOk
  · exact .inr ⟨rfl, by simp [State.chanWrite, h, State.afterDraw]⟩
  · exact .inl ⟨rfl, by simp [State.chanWrite, h]⟩

/-- The operand guard answers `ERR_OPERAND` or what is performed (spec/30_encoding.md R82 step 4). -/
theorem State.guarded_cases {s t : State} {b : Bool} {r : Result} (h : s.guarded b r = .next t) :
    (b = true ∧ r = .next t) ∨ (b = false ∧ t = s.raise .errOperand) := by
  cases b
  · exact .inr ⟨rfl, by simpa [State.guarded, eq_comm] using h⟩
  · exact .inl ⟨rfl, by simpa [State.guarded] using h⟩

@[simp] theorem State.guarded_true (s : State) (r : Result) : s.guarded true r = r := rfl

@[simp] theorem State.guarded_false (s : State) (r : Result) : s.guarded false r = .next (s.raise .errOperand) := rfl

/-! ### The operand ranges, with the bounds of R86 in figures. -/

@[simp] theorem payloadInRange_iff {p : Bytes} : payloadInRange p = true ↔ p.length ≤ 64 := decide_eq_true_iff

@[simp] theorem fcsInRange_iff {f : Bytes} : fcsInRange f = true ↔ f.length ≤ 2 := decide_eq_true_iff

@[simp] theorem anyLen16_iff {b : Bytes} : anyLen16 b = true ↔ b.length ≤ 65535 := decide_eq_true_iff

@[simp] theorem frameInRange_iff {b : Bytes} : frameInRange b = true ↔ b.length ≤ 70 := decide_eq_true_iff

@[simp] theorem messageInRange_iff {b : Bytes} : messageInRange b = true ↔ b.length ≤ 16320 := decide_eq_true_iff

@[simp] theorem flagInRange_iff {a : Byte} : flagInRange a = true ↔ a.toNat ≤ 1 := decide_eq_true_iff

@[simp] theorem serializeFcsInRange_iff {f : Bytes} :
    serializeFcsInRange f = true ↔ 1 ≤ f.length ∧ f.length ≤ 2 := by
  rw [serializeFcsInRange, Bool.and_eq_true]
  exact and_congr decide_eq_true_iff decide_eq_true_iff

@[simp] theorem stuffedInRange_iff {b : Bytes} : stuffedInRange b = true ↔ 1 ≤ b.length ∧ b.length ≤ 138 := by
  rw [stuffedInRange, Bool.and_eq_true]
  exact and_congr decide_eq_true_iff decide_eq_true_iff

/-- A scheduled turn is the next one, and nothing but the schedule changes before it runs. -/
@[simp] theorem step_scheduled (s : State) (turn : Turn) (rest : List Turn) :
    step { s with sched := turn :: rest } = runTurn turn { s with sched := rest } := rfl

/-- With nothing scheduled the sequencer or the slot timer moves, on the same state. -/
theorem step_unscheduled {s : State} (h : s.sched = []) :
    step s = if s.sequencerEnabled then sequencerStep s else .next (slotTick s) := by
  have hs : s.afterTurn = s := by cases s; simp_all [State.afterTurn]
  unfold step State.nextTurn
  rw [hs, h]
  cases s.sequencerEnabled <;> rfl

/-- A packet is answered with the decoder's error or runs its operation. -/
theorem runPacket_cases (packet : Bytes) (s : State) :
    (∃ e, decode packet = .error e ∧ runPacket packet s = .next (s.raise e))
      ∨ ∃ i, decode packet = .ok i ∧ runPacket packet s = exec i s := by
  unfold runPacket
  cases decode packet with
  | error e => exact .inl ⟨e, rfl, rfl⟩
  | ok i => exact .inr ⟨i, rfl, rfl⟩

end Sys2Proof.Machine
end

