-- ==== Sys2Proof/Laws/Mac.lean ====
section
/-! SUPPORT. What the steps of the MAC can do, said once per step (spec/45_mac.md R220 to R227). -/

namespace Sys2Proof.Machine

theorem bmax_le (a : Nat) : bmax a ≤ 1023 := by
  have h : 2 ^ min a Config.backoffCap ≤ 2 ^ 10 := Nat.pow_le_pow_right (by decide) (Nat.min_le_right _ _)
  simp only [bmax]; omega

/-- A delay drawn for an attempt fits the 10 bits of the countdown. -/
theorem backoff_toNat (s : State) (a : Nat) :
    (BitVec.ofNat 10 (s.drawValue (bmax a))).toNat = s.drawValue (bmax a) := by
  have := s.drawValue_le (bmax a); have := bmax_le a
  simp only [BitVec.toNat_ofNat]; omega

/-- The `SENSE` step gives up, backs off or transmits (R221). -/
theorem senseStep_cases (s : State) :
    (s.attempt.toNat = 16 ∧ senseStep s = State.emit { s with macState := .giveUp } (.txDone false))
      ∨ (s.attempt.toNat ≠ 16 ∧ s.drawBit = true
        ∧ senseStep s = s.afterDraw.enterBackoff.emit (.mediumBusy s.attempt))
      ∨ (s.attempt.toNat ≠ 16 ∧ s.drawBit = false
        ∧ senseStep s = { s.afterDraw with txIdx := 0, macState := .transmit }) := by
  by_cases h : s.attempt.toNat = 16
  · exact .inl ⟨h, by simp [senseStep, h, Config.maxAttempts]⟩
  · cases hb : s.drawBit
    · exact .inr (.inr ⟨h, rfl, by simp [senseStep, h, hb, Config.maxAttempts]⟩)
    · exact .inr (.inl ⟨h, rfl, by simp [senseStep, h, hb, Config.maxAttempts]⟩)

/-- The `TRANSMIT` step collides, faults outside the frame, fails to write, or writes byte `tx_idx` (R222). -/
theorem transmitStep_cases (s : State) :
    (s.drawBit = true ∧ transmitStep s = .next (s.afterDraw.collide .trial))
      ∨ (s.drawBit = false ∧ s.txf.length ≤ s.txIdx.toNat ∧ transmitStep s = .fault .txIndexOutOfRange)
      ∨ (∃ b, s.drawBit = false ∧ s.txf[s.txIdx.toNat]? = some b
        ∧ ((s.afterDraw.chanOk = true ∧ transmitStep s = .next (s.afterDraw.chanWrite [b]).byteWritten)
          ∨ (s.afterDraw.chanOk = false ∧ transmitStep s = .next ((s.afterDraw.chanWrite [b]).collide .write)))) := by
  unfold transmitStep
  cases hb : s.drawBit
  · cases hx : s.txf[s.txIdx.toNat]? with
    | none => exact .inr (.inl ⟨rfl, by simpa using hx, by simp⟩)
    | some b =>
      refine .inr (.inr ⟨b, rfl, rfl, ?_⟩)
      cases ho : s.afterDraw.chanOk
      · exact .inr ⟨rfl, by simp⟩
      · exact .inl ⟨rfl, by simp⟩
  · exact .inl ⟨rfl, by simp⟩

/-- A written byte ends the frame or moves the index on (R222). -/
theorem byteWritten_cases (s : State) :
    ((s.txIdx + 1).toNat = s.txf.length
        ∧ s.byteWritten = State.emit { s with txIdx := s.txIdx + 1, macState := .success } (.txDone true))
      ∨ ((s.txIdx + 1).toNat ≠ s.txf.length ∧ s.byteWritten = { s with txIdx := s.txIdx + 1 }) := by
  unfold State.byteWritten
  split
  · exact .inl ⟨‹_›, rfl⟩
  · exact .inr ⟨‹_›, rfl⟩

/-- The sequencer's turn is the one step its state enables, or nothing (R220). -/
theorem sequencerStep_cases (s : State) :
    (s.macState = .sense ∧ sequencerStep s = .next (senseStep s))
      ∨ (s.macState = .transmit ∧ sequencerStep s = transmitStep s)
      ∨ (s.macState = .collided ∧ sequencerStep s = .next (collidedStep s))
      ∨ (s.macState = .backoff ∧ s.backoffCnt = 0 ∧ sequencerStep s = .next (expireStep s))
      ∨ (s.sequencerEnabled = false ∧ sequencerStep s = .next s) := by
  unfold sequencerStep State.sequencerEnabled
  cases hm : s.macState <;> by_cases hc : s.backoffCnt = 0#10 <;> simp [hc]

theorem sequencerStep_sense {s : State} (h : s.macState = .sense) : sequencerStep s = .next (senseStep s) := by
  unfold sequencerStep; rw [h]

theorem sequencerStep_transmit {s : State} (h : s.macState = .transmit) : sequencerStep s = transmitStep s := by
  unfold sequencerStep; rw [h]

theorem sequencerStep_collided {s : State} (h : s.macState = .collided) :
    sequencerStep s = .next (collidedStep s) := by
  unfold sequencerStep; rw [h]

theorem sequencerStep_backoff {s : State} (h : s.macState = .backoff) :
    sequencerStep s = .next (if s.backoffCnt = 0 then expireStep s else s) := by
  unfold sequencerStep; rw [h]; dsimp only; split <;> rfl

/-- The slot tick takes one slot off a countdown above 0 in `BACKOFF`, or does nothing (R227). -/
theorem slotTick_cases (s : State) :
    (s.macState = .backoff ∧ s.backoffCnt ≠ 0 ∧ slotTick s = { s with backoffCnt := s.backoffCnt - 1 })
      ∨ (¬ (s.macState = .backoff ∧ s.backoffCnt ≠ 0) ∧ slotTick s = s) := by
  unfold slotTick
  split
  · rename_i h; exact .inl ⟨h.1, h.2, rfl⟩
  · exact .inr ⟨‹_›, rfl⟩

end Sys2Proof.Machine
end

