-- ==== Sys2Proof/Laws/Seg.lean ====
section
/-! SUPPORT. What the SEG/RX unit's shared operations can do, said once each (spec/43_segment_reassemble.md). -/

namespace Sys2Proof.Machine

/-- A delivery overflows, or scans and answers (R179, R180). -/
theorem deliver_cases (chunk : Bytes) (s : State) :
    (overflows s.params (keptBuffer s.rxb (stripJam chunk).1 ++ (stripJam chunk).1).length = true
      ∧ deliver chunk s =
        (State.emit { s.emitDelivery (stripJam chunk).2 (resyncs s.rxb (stripJam chunk).1) with rxb := [] }
          .rxOverflow).raise .errRxOverflow)
    ∨ (overflows s.params (keptBuffer s.rxb (stripJam chunk).1 ++ (stripJam chunk).1).length = false
      ∧ ∃ scan : Scan,
        scan = Scan.run (keptBuffer s.rxb (stripJam chunk).1 ++ (stripJam chunk).1).length
          ⟨keptBuffer s.rxb (stripJam chunk).1 ++ (stripJam chunk).1, 0, [],
            s.emitDelivery (stripJam chunk).2 (resyncs s.rxb (stripJam chunk).1)⟩
        ∧ deliver chunk s =
          State.answer { scan.state with rxb := scan.buf }
            (DeliverResult.fields
              { jamRuns := (stripJam chunk).2, resync := resyncs s.rxb (stripJam chunk).1, dropped := scan.dropped,
                frames := scan.frames })) := by
  unfold deliver
  cases h : overflows s.params (keptBuffer s.rxb (stripJam chunk).1 ++ (stripJam chunk).1).length
  · exact .inr ⟨rfl, _, rfl, by dsimp only; rw [h]; rfl⟩
  · exact .inl ⟨rfl, by dsimp only; rw [h]; rfl⟩

/-- Stripping and resynchronising only append events (R180). -/
theorem State.emitDelivery_eq (s : State) (runs : Nat) (resync : Bool) :
    s.emitDelivery runs resync =
      { s with
        evTrace := s.evTrace ++ (if 0 < runs then [Event.jamSeen runs] else [])
          ++ (if resync then [Event.resync] else []) } := by
  unfold State.emitDelivery
  split <;> cases resync <;> simp [State.emit]

/-- One flip, or two, or none on the empty payload (R201): the length stays, and only draws are used up. -/
theorem inject_length (p : Bytes) (s : State) : (inject p s).payload.length = p.length := by
  unfold inject
  split
  · rfl
  · dsimp only
    split <;> simp [flipDrawn, flipBit]

/-- A run of draws changes nothing but the answers and the counter. -/
theorem inject_state (p : Bytes) (s : State) :
    (inject p s).state = { s with draws := (inject p s).state.draws, drawCnt := (inject p s).state.drawCnt } := by
  unfold inject
  split
  · rfl
  · dsimp only
    split <;> rfl

theorem receiveInjection_state (p : Bytes) (s : State) :
    (receiveInjection p s).state
      = { s with draws := (receiveInjection p s).state.draws, drawCnt := (receiveInjection p s).state.drawCnt } := by
  unfold receiveInjection
  split
  · exact inject_state p s
  · rfl

theorem receiveInjection_length (p : Bytes) (s : State) : (receiveInjection p s).payload.length = p.length := by
  unfold receiveInjection
  split
  · exact inject_length p s
  · rfl

/-- A frame's processing uses up draws and changes nothing else (R181). -/
theorem afterFrame_eq (w : Bytes) (s : State) :
    afterFrame w s = { s with draws := (afterFrame w s).draws, drawCnt := (afterFrame w s).drawCnt } := by
  unfold afterFrame
  cases unwrapFrame w with
  | error e => rfl
  | ok f => exact receiveInjection_state f.payload s

/-- One turn of the scan loop (R180). -/
theorem Scan.turn_eq (c : Scan) (start stop : Nat) :
    c.turn start stop =
      { buf := c.buf.drop stop
        dropped := c.dropped + (processFrame (slice c.buf start stop) c.state).drops
        frames := c.frames ++ (processFrame (slice c.buf start stop) c.state).records
        state := (afterFrame (slice c.buf start stop) c.state).emit
          (processFrame (slice c.buf start stop) c.state).event } := rfl

/-- The scan only uses up draws and appends events; the records it adds are those it had and new ones. -/
theorem Scan.run_state (turns : Nat) (c : Scan) :
    ∃ (events : List Event) (records : List FrameRecord), (Scan.run turns c).frames = c.frames ++ records
      ∧ (Scan.run turns c).state =
        { c.state with
          evTrace := c.state.evTrace ++ events
          draws := (Scan.run turns c).state.draws
          drawCnt := (Scan.run turns c).state.drawCnt } := by
  induction turns generalizing c with
  | zero => exact ⟨[], [], by simp [Scan.run], by simp [Scan.run]⟩
  | succ n ih =>
    unfold Scan.run
    split
    · exact ⟨[], [], by simp, by simp⟩
    · obtain ⟨ev, rec, hf, hs⟩ := ih (c.turn (rxFind c.buf).1 (rxFind c.buf).2)
      generalize Scan.run n (c.turn (rxFind c.buf).1 (rxFind c.buf).2) = r at hf hs ⊢
      rw [Scan.turn_eq] at hf hs
      dsimp only at hf hs
      refine ⟨(processFrame (slice c.buf (rxFind c.buf).1 (rxFind c.buf).2) c.state).event :: ev, _,
        by rw [hf, List.append_assoc], ?_⟩
      rw [hs, State.emit]
      rw [afterFrame_eq]
      simp

/-! ### A frame's processing reads neither the event trace nor the buffer (R181). -/

theorem inject_observed (p : Bytes) (s : State) (events : List Event) (b : Bytes) :
    inject p { s with evTrace := events, rxb := b } =
      ⟨(inject p s).payload, (inject p s).errorCount, { (inject p s).state with evTrace := events, rxb := b }⟩ := by
  unfold inject
  split
  · rfl
  · dsimp only
    have : ({ s with evTrace := events, rxb := b } : State).drawBit = s.drawBit := rfl
    rw [this]
    split <;> rfl

theorem receiveInjection_observed (p : Bytes) (s : State) (events : List Event) (b : Bytes) :
    receiveInjection p { s with evTrace := events, rxb := b } =
      ⟨(receiveInjection p s).payload, (receiveInjection p s).errorCount,
        { (receiveInjection p s).state with evTrace := events, rxb := b }⟩ := by
  unfold receiveInjection
  dsimp only
  split
  · exact inject_observed p s events b
  · rfl

theorem processFrame_observed (w : Bytes) (s : State) (events : List Event) (b : Bytes) :
    processFrame w { s with evTrace := events, rxb := b } = processFrame w s := by
  unfold processFrame
  cases unwrapFrame w with
  | error e => rfl
  | ok f => simp only [receiveFrame, receiveInjection_observed]

theorem afterFrame_observed (w : Bytes) (s : State) (events : List Event) (b : Bytes) :
    afterFrame w { s with evTrace := events, rxb := b } = { afterFrame w s with evTrace := events, rxb := b } := by
  unfold afterFrame
  cases unwrapFrame w with
  | error e => rfl
  | ok f => simp only [receiveInjection_observed]

/-- What a scan begins with stands before what it adds: the count, the records, the events. -/
theorem Scan.run_accumulates (turns : Nat) (buf : Bytes) (dropped : Nat) (frames : List FrameRecord) (s : State)
    (old new : List Event) (b b' : Bytes) :
    Scan.run turns ⟨buf, dropped, frames, { s with evTrace := old ++ new, rxb := b }⟩ =
      ⟨(Scan.run turns ⟨buf, 0, [], { s with evTrace := new, rxb := b' }⟩).buf,
        dropped + (Scan.run turns ⟨buf, 0, [], { s with evTrace := new, rxb := b' }⟩).dropped,
        frames ++ (Scan.run turns ⟨buf, 0, [], { s with evTrace := new, rxb := b' }⟩).frames,
        { (Scan.run turns ⟨buf, 0, [], { s with evTrace := new, rxb := b' }⟩).state with
          evTrace := old ++ (Scan.run turns ⟨buf, 0, [], { s with evTrace := new, rxb := b' }⟩).state.evTrace
          rxb := b }⟩ := by
  induction turns generalizing buf dropped frames s old new b b' with
  | zero => simp only [Scan.run, Nat.add_zero, List.append_nil]
  | succ n ih =>
    unfold Scan.run
    dsimp only
    split
    · simp only [Nat.add_zero, List.append_nil]
    · simp only [Scan.turn_eq, processFrame_observed, afterFrame_observed, State.emit]
      generalize processFrame (slice buf (rxFind buf).1 (rxFind buf).2) s = fate
      generalize afterFrame (slice buf (rxFind buf).1 (rxFind buf).2) s = s'
      have h1 := ih (buf.drop (rxFind buf).2) (dropped + fate.drops) (frames ++ fate.records) s' old
        (new ++ [fate.event]) b b'
      have h2 := ih (buf.drop (rxFind buf).2) (0 + fate.drops) ([] ++ fate.records) s' [] (new ++ [fate.event]) b' b'
      simp only [List.append_assoc, List.nil_append, Nat.zero_add] at h1 h2 ⊢
      rw [h1, h2]
      simp only [Nat.add_assoc]

/-! ### Jam stripping (R177). -/

/-- A byte that no jam run begins with is kept. -/
theorem stripJam_cons {a : Byte} (rest : Bytes) (h : ¬ (a = 0xFF ∧ rest.take 3 = [0xFF, 0xFF, 0xFF])) :
    stripJam (a :: rest) = (a :: (stripJam rest).1, (stripJam rest).2) := by
  match rest with
  | [] => rfl
  | [_] => rfl
  | [_, _] => rfl
  | b :: c :: d :: r =>
    rw [stripJam, if_neg]
    rintro ⟨h1, h2, h3, h4⟩
    exact h ⟨h1, by simp [h2, h3, h4, Config.jamByte]⟩

/-- Each run counted is four bytes fewer. -/
theorem stripJam_length (c : Bytes) : (stripJam c).1.length + 4 * (stripJam c).2 = c.length := by
  fun_induction stripJam c <;> simp_all <;> omega

/-! ### RX.FIND. -/

theorem frmCheck_iff {b : Bytes} :
    frmCheck b = true ↔ 5 ≤ b.length ∧ b.head? = some 0x0B ∧ b.getLast? = some 0x0C := by
  rw [frmCheck, Bool.and_eq_true, Bool.and_eq_true, decide_eq_true_iff, beq_iff_eq, beq_iff_eq, and_assoc]
  exact Iff.rfl

theorem slice_length (b : Bytes) (i j : Nat) : (slice b i j).length = min (j - i) (b.length - i) := by
  simp [slice]

/-- The end found closes a range of at least 5 bytes inside the buffer (R175). -/
theorem findEnd_bounds {buf : Bytes} {start e : Nat} (h : findEnd buf start = some e) :
    start + 4 ≤ e ∧ e < buf.length := by
  unfold findEnd at h
  have hm := List.mem_of_find?_eq_some h
  have hp := List.find?_some h
  simp only [List.mem_range'_1] at hm
  simp only [Bool.and_eq_true, frmCheck_iff, slice_length] at hp
  omega

/-- A frame found is at least 5 bytes long and lies inside the buffer (R175). -/
theorem rxFind_bounds {buf : Bytes} (h : (rxFind buf).2 ≠ 0) :
    (rxFind buf).1 + 5 ≤ (rxFind buf).2 ∧ (rxFind buf).2 ≤ buf.length := by
  unfold rxFind at h ⊢
  split at h
  · simp at h
  · rename_i s hs
    split at h
    · simp at h
    · rename_i e he
      have := findEnd_bounds he
      dsimp only; omega

/-- The bound on the number of turns is never met: the scan ends with no complete frame left (R180). -/
theorem Scan.run_done {turns : Nat} {c : Scan} (h : c.buf.length ≤ turns) : (rxFind (Scan.run turns c).buf).2 = 0 := by
  induction turns generalizing c with
  | zero =>
    by_contra hne
    have := rxFind_bounds hne
    simp only [Scan.run] at this; omega
  | succ n ih =>
    unfold Scan.run
    split
    · assumption
    · rename_i hne
      have := rxFind_bounds hne
      refine ih ?_
      rw [Scan.turn_eq]
      simp only [List.length_drop]; omega

/-- The scan's buffer is a tail of the buffer it began with. -/
theorem Scan.run_suffix (turns : Nat) (c : Scan) : (Scan.run turns c).buf <:+ c.buf := by
  induction turns generalizing c with
  | zero => exact List.suffix_refl _
  | succ n ih =>
    unfold Scan.run
    split
    · exact List.suffix_refl _
    · refine (ih _).trans ?_
      rw [Scan.turn_eq]
      exact List.drop_suffix _ _

/-- More turns than the buffer has bytes change nothing. -/
theorem Scan.run_stable {turns more : Nat} {c : Scan} (h : c.buf.length ≤ turns) (h' : turns ≤ more) :
    Scan.run more c = Scan.run turns c := by
  induction turns generalizing more c with
  | zero =>
    cases more with
    | zero => rfl
    | succ m =>
      have : (rxFind c.buf).2 = 0 := by
        by_contra hne
        have := rxFind_bounds hne; omega
      simp [Scan.run, this]
  | succ n ih =>
    cases more with
    | zero => omega
    | succ m =>
      unfold Scan.run
      split
      · rfl
      · rename_i hne
        have := rxFind_bounds hne
        refine ih ?_ (by omega)
        rw [Scan.turn_eq]
        simp only [List.length_drop]; omega

/-- What a delivery writes: the receive buffer, the response, the draws used up, and events appended (R180). -/
theorem deliver_frame (chunk : Bytes) (s : State) :
    ∃ events : List Event, deliver chunk s =
      { s with
        rxb := (deliver chunk s).rxb
        evTrace := s.evTrace ++ events
        response := (deliver chunk s).response
        draws := (deliver chunk s).draws
        drawCnt := (deliver chunk s).drawCnt } := by
  rcases deliver_cases chunk s with ⟨-, h⟩ | ⟨-, scan, hs, h⟩
  · rw [h, State.emitDelivery_eq]
    refine ⟨(if 0 < (stripJam chunk).2 then [Event.jamSeen (stripJam chunk).2] else [])
      ++ ((if resyncs s.rxb (stripJam chunk).1 then [Event.resync] else []) ++ [Event.rxOverflow]), ?_⟩
    simp only [State.emit, State.raise, List.append_assoc]
  · obtain ⟨ev, rec, -, hst⟩ := Scan.run_state (keptBuffer s.rxb (stripJam chunk).1 ++ (stripJam chunk).1).length
      ⟨keptBuffer s.rxb (stripJam chunk).1 ++ (stripJam chunk).1, 0, [],
        s.emitDelivery (stripJam chunk).2 (resyncs s.rxb (stripJam chunk).1)⟩
    rw [← hs, State.emitDelivery_eq] at hst
    dsimp only at hst
    rw [h, hst]
    refine ⟨(if 0 < (stripJam chunk).2 then [Event.jamSeen (stripJam chunk).2] else [])
      ++ ((if resyncs s.rxb (stripJam chunk).1 then [Event.resync] else []) ++ ev), ?_⟩
    simp only [State.answer, List.append_assoc]

/-- A delivery answers `OK` or `ERR_RX_OVERFLOW` alone. -/
theorem deliver_response (chunk : Bytes) (s : State) :
    (∃ results, (deliver chunk s).response = Status.ok.code :: results)
      ∨ ((deliver chunk s).response = [Status.errRxOverflow.code] ∧ (deliver chunk s).rxb = []) := by
  rcases deliver_cases chunk s with ⟨-, h⟩ | ⟨-, scan, -, h⟩
  · exact .inr (by rw [h]; exact ⟨rfl, rfl⟩)
  · exact .inl ⟨_, by rw [h]; rfl⟩

end Sys2Proof.Machine
end

