-- ==== Sys2Proof/Laws/Exec.lean ====
section
/-! SUPPORT. What an operation can do to the state, said once for all nineteen: most write the response and nothing
else. -/

namespace Sys2Proof.Machine

/-- The operations that compute a response from their operands alone, or from what they read of the state, and every
operation that answers an error without a state change, write only the response. Each of the others is named. -/
theorem exec_cases (i : Instr) (s : State) :
    (∃ r, exec i s = .next { s with response := r })
    ∨ (∃ c, i = .rxDeliver c ∧ c.length ≤ 65535 ∧ exec i s = .next (deliver c s))
    ∨ (∃ p r, i = .injInject p ∧ exec i s = .next { (inject p s).state with response := r })
    ∨ (∃ w, i = .macSend w ∧ 1 ≤ w.length ∧ w.length ≤ 138 ∧ s.macState.busy = false ∧ s.emuEn = true
        ∧ exec i s = .next ((s.latch w).answer []))
    ∨ (∃ w e, i = .macSend w ∧ s.macState.busy = false ∧ s.emuEn = false
        ∧ e = (if s.chanOk then Status.ok else Status.errWrite)
        ∧ exec i s = .next { s.sendDirect w with response := [e.code] })
    ∨ (∃ a, i = .macSetEmu a ∧ exec i s = .next ((s.setEmu (a == 1)).answer []))
    ∨ (i = .macStatsReset ∧ exec i s = .next (s.clearCollisions.clearJam.answer []))
    ∨ (∃ a r, i = .macBkdelay a ∧ exec i s = .next { s.afterDraw with response := r }) := by
  cases i
  case frmDeserialize b =>
    refine .inl ?_
    simp only [exec, execFrmDeserialize, State.guarded]
    split
    · split <;> exact ⟨_, rfl⟩
    · exact ⟨_, rfl⟩
  case stfUnstuff b =>
    refine .inl ?_
    simp only [exec, execStfUnstuff, State.guarded]
    split
    · split <;> exact ⟨_, rfl⟩
    · exact ⟨_, rfl⟩
  case rxDeliver c =>
    cases h : anyLen16 c
    · exact .inl ⟨_, by simp only [exec, execRxDeliver, h, State.guarded_false]; rfl⟩
    · exact .inr (.inl ⟨c, rfl, anyLen16_iff.1 h, by simp only [exec, execRxDeliver, h, State.guarded_true]⟩)
  case injInject p =>
    cases h : payloadInRange p
    · exact .inl ⟨_, by simp only [exec, execInjInject, h, State.guarded_false]; rfl⟩
    · exact .inr (.inr (.inl ⟨p, _, rfl, by simp only [exec, execInjInject, h, State.guarded_true]; rfl⟩))
  case macSend w =>
    cases h : stuffedInRange w
    · exact .inl ⟨_, by simp only [exec, execMacSend, h, State.guarded_false]; rfl⟩
    · obtain ⟨h1, h2⟩ := stuffedInRange_iff.1 h
      simp only [exec, execMacSend, h, State.guarded_true]
      cases hb : s.macState.busy
      · cases he : s.emuEn
        · refine .inr (.inr (.inr (.inr (.inl ⟨w, _, rfl, rfl, rfl, rfl, ?_⟩))))
          cases s.chanOk <;> rfl
        · exact .inr (.inr (.inr (.inl ⟨w, rfl, h1, h2, rfl, rfl, rfl⟩)))
      · exact .inl ⟨_, rfl⟩
  case macSetEmu a =>
    cases h : flagInRange a
    · exact .inl ⟨_, by simp only [exec, execMacSetEmu, h, State.guarded_false]; rfl⟩
    · exact .inr (.inr (.inr (.inr (.inr (.inl
        ⟨a, rfl, by simp only [exec, execMacSetEmu, h, State.guarded_true]⟩)))))
  case macStatsReset => exact .inr (.inr (.inr (.inr (.inr (.inr (.inl ⟨rfl, rfl⟩))))))
  case macBkdelay a => exact .inr (.inr (.inr (.inr (.inr (.inr (.inr ⟨a, _, rfl, rfl⟩))))))
  case fecEncode p =>
    refine .inl ?_
    simp only [exec, execFecEncode, State.guarded]
    split <;> exact ⟨_, rfl⟩
  case fecVerify p f =>
    refine .inl ?_
    simp only [exec, execFecVerify, State.guarded]
    split <;> exact ⟨_, rfl⟩
  case fecCorrect p f =>
    refine .inl ?_
    simp only [exec, execFecCorrect, State.guarded]
    split <;> exact ⟨_, rfl⟩
  case frmSerialize t q p f =>
    refine .inl ?_
    simp only [exec, execFrmSerialize, State.guarded]
    split <;> exact ⟨_, rfl⟩
  case frmCheck b =>
    refine .inl ?_
    simp only [exec, execFrmCheck, State.guarded]
    split <;> exact ⟨_, rfl⟩
  case stfStuff b =>
    refine .inl ?_
    simp only [exec, execStfStuff, State.guarded]
    split <;> exact ⟨_, rfl⟩
  case segSegment m =>
    refine .inl ?_
    simp only [exec, execSegSegment, State.guarded]
    split <;> exact ⟨_, rfl⟩
  case rxFind b =>
    refine .inl ?_
    simp only [exec, execRxFind, State.guarded]
    split <;> exact ⟨_, rfl⟩
  case fecKcount n => exact .inl ⟨_, rfl⟩
  case macStatus => exact .inl ⟨_, rfl⟩
  case macStats => exact .inl ⟨_, rfl⟩

end Sys2Proof.Machine
end

