-- ==== Sys2Proof/Laws/Agents.lean ====
section
/-! SUPPORT. What a turn can do, said once: an error answer, a decoded operation, a delivery, a step of the MAC, a tick or
reset (spec/60_exceptions.md R270). -/

namespace Sys2Proof.Machine

/-- A chunk that a packet can carry reaches `deliver`; a longer one is a packet whose length field does not fit. -/
theorem runDelivery_cases (chunk : Bytes) (s : State) :
    (chunk.length ≤ 65535 ∧ runDelivery chunk s = .next (deliver chunk s))
      ∨ (65535 < chunk.length ∧ runDelivery chunk s = .next (s.raise .errFormat)) := by
  have hd : decode (encode (.rxDeliver chunk))
      = (match parseS .rxDeliver (encodeS chunk) with | none => .error .errFormat | some i => .ok i) := by
    simp only [decode, encode, Opcode.ofByte_code]; rfl
  by_cases hc : chunk.length ≤ 65535
  · have hp : parseS .rxDeliver (encodeS chunk) = some (.rxDeliver chunk) :=
      parseS_iff.2 ⟨chunk, by omega, rfl, rfl⟩
    rw [hp] at hd
    refine .inl ⟨hc, ?_⟩
    simp only [runDelivery, runPacket, hd, exec, execRxDeliver, anyLen16_iff.2 hc, State.guarded_true]
  · have hp : parseS .rxDeliver (encodeS chunk) = none := by
      cases h : parseS .rxDeliver (encodeS chunk) with
      | none => rfl
      | some i =>
        obtain ⟨d, hl, he, -⟩ := parseS_iff.1 h
        simp only [encodeS, be16, List.cons_append, List.nil_append, List.cons.injEq] at he
        exact absurd hl (by rw [← he.2.2]; omega)
    rw [hp] at hd
    exact .inr ⟨by omega, by simp only [runDelivery, runPacket, hd]⟩

/-- What a turn does, by its kind. -/
theorem runTurn_cases (turn : Turn) (s : State) :
    (∃ e, runTurn turn s = .next (s.raise e))
    ∨ (∃ p i, turn = .host p ∧ decode p = .ok i ∧ runTurn turn s = exec i s)
    ∨ (∃ c, turn = .channel c ∧ c.length ≤ 65535 ∧ runTurn turn s = .next (deliver c s))
    ∨ (turn = .sequencer ∧ runTurn turn s = sequencerStep s)
    ∨ (turn = .tick ∧ runTurn turn s = .next (slotTick s))
    ∨ (turn = .reset ∧ runTurn turn s = .next s.resetStep) := by
  cases turn with
  | host p =>
    rcases runPacket_cases p s with ⟨e, -, h⟩ | ⟨i, h, h'⟩
    · exact .inl ⟨e, h⟩
    · exact .inr (.inl ⟨p, i, rfl, h, h'⟩)
  | channel c =>
    rcases runDelivery_cases c s with ⟨hc, h⟩ | ⟨-, h⟩
    · exact .inr (.inr (.inl ⟨c, rfl, hc, h⟩))
    · exact .inl ⟨_, h⟩
  | sequencer => exact .inr (.inr (.inr (.inl ⟨rfl, rfl⟩)))
  | tick => exact .inr (.inr (.inr (.inr (.inl ⟨rfl, rfl⟩))))
  | reset => exact .inr (.inr (.inr (.inr (.inr ⟨rfl, rfl⟩))))

end Sys2Proof.Machine
end

