-- ==== Sys2Proof/Laws/Fec.lean ====
section
/-! SUPPORT. Small lemmas of the FEC and FRM units: lengths, the packing of the FCS bits, the inversion of a data bit,
and what each test of the correction and of the deserializer decides (spec/42_hamming_fec.md, spec/40_frame_codec.md). -/

namespace Sys2Proof.Machine

/-! ### FEC. -/

theorem leastExponent_spec {target trials k : Nat} (hlo : ∀ j < k, 2 ^ j < target) (hhi : target ≤ 2 ^ (k + trials)) :
    target ≤ 2 ^ leastExponent target trials k ∧ ∀ j < leastExponent target trials k, 2 ^ j < target := by
  induction trials generalizing k with
  | zero => exact ⟨hhi, hlo⟩
  | succ n ih =>
    unfold leastExponent
    split
    · exact ⟨‹_›, hlo⟩
    · rename_i hk
      refine ih (fun j hj => ?_) (by rw [Nat.add_right_comm]; exact hhi)
      rcases Nat.lt_succ_iff_lt_or_eq.1 hj with h | rfl
      · exact hlo j h
      · omega

/-- `k(n)` is an exponent with `2^k >= 8n + 1`, and no smaller one is (R141). -/
theorem controlBitCount_spec (n : Nat) :
    8 * n + 1 ≤ 2 ^ controlBitCount n ∧ ∀ j < controlBitCount n, 2 ^ j < 8 * n + 1 :=
  leastExponent_spec (by simp) (by rw [Nat.zero_add]; exact Nat.le_of_lt Nat.lt_two_pow_self)

theorem byteBits_length (b : Byte) : (byteBits b).length = 8 := rfl

theorem dataBits_length (p : Bytes) : (dataBits p).length = 8 * p.length := by
  induction p with
  | nil => rfl
  | cons b p ih =>
    simp only [dataBits, List.flatMap_cons, List.length_append, byteBits_length, List.length_cons] at ih ⊢
    omega

theorem controlBits_length (p : Bytes) : (controlBits p).length = controlBitCount p.length := by simp [controlBits]

theorem fcsBits_length (p : Bytes) : (fcsBits p).length = controlBitCount p.length + 1 := by
  simp [fcsBits, controlBits_length]

theorem packBits_length (bits : List Bool) : (packBits bits).length = (bits.length + 7) / 8 := by simp [packBits]

/-- `F(n)` bytes (R143). -/
theorem fecEncode_length (p : Bytes) : (fecEncode p).length = fcsLength p.length := by
  rw [fecEncode, packBits_length, fcsBits_length, fcsLength]

theorem ofNat_bits : ∀ b0 b1 b2 b3 b4 b5 b6 b7 : Bool,
    byteBits (BitVec.ofNat 8
      (b0.toNat * 128 + b1.toNat * 64 + b2.toNat * 32 + b3.toNat * 16 + b4.toNat * 8 + b5.toNat * 4 + b6.toNat * 2
        + b7.toNat)) = [b0, b1, b2, b3, b4, b5, b6, b7] := by decide

/-- The bits of a packed byte are the bits it was packed from, MSB-first. -/
theorem byteBits_byteOfBits (bit : Nat → Bool) :
    byteBits (byteOfBits bit) = [bit 0, bit 1, bit 2, bit 3, bit 4, bit 5, bit 6, bit 7] := ofNat_bits ..

/-- Bit `7 - t` of a packed byte is the bit at place `t`. -/
theorem byteOfBits_getLsbD (bit : Nat → Bool) {t : Nat} (h : t < 8) : (byteOfBits bit).getLsbD (7 - t) = bit t := by
  have hb := byteBits_byteOfBits bit
  simp only [byteBits, List.cons.injEq, and_true] at hb
  have : t = 0 ∨ t = 1 ∨ t = 2 ∨ t = 3 ∨ t = 4 ∨ t = 5 ∨ t = 6 ∨ t = 7 := by omega
  rcases this with rfl | rfl | rfl | rfl | rfl | rfl | rfl | rfl <;> simp only [Nat.reduceSub, hb]

/-- The bits of a packed sequence come back, and the padding is 0 (R143, R147). -/
theorem fcsBit_packBits (bits : List Bool) (x : Nat) : fcsBit (packBits bits) x = bits.getD x false := by
  unfold fcsBit
  by_cases hx : x / 8 < (bits.length + 7) / 8
  · have hg : (packBits bits).getD (x / 8) 0 = byteOfBits fun t => bits.getD (8 * (x / 8) + t) false := by
      simp [packBits, List.getD_eq_getElem?_getD, List.getElem?_range hx]
    rw [hg, byteOfBits_getLsbD _ (Nat.mod_lt _ (by decide)), Nat.div_add_mod]
  · have hg : (packBits bits).getD (x / 8) 0 = 0 := by
      rw [List.getD_eq_getElem?_getD, List.getElem?_eq_none (by rw [packBits_length]; omega)]; rfl
    rw [hg, List.getD_eq_getElem?_getD, List.getElem?_eq_none (by omega)]; simp

theorem flipDataBit_length (p : Bytes) (pos : Nat) : (flipDataBit p pos).length = p.length := by simp [flipDataBit]

/-- The tests of `FEC.CORRECT`, in their order (R150, R151). -/
theorem fecCorrect_cases (mode : ParityMode) (p fcs : Bytes) :
    (p.length = 0 ∧ fecCorrect mode p fcs = ⟨.emptyPayload, 0, false, p⟩)
    ∨ (p.length ≠ 0 ∧ fecEncode p = fcs ∧ fecCorrect mode p fcs = ⟨.noError, 0, false, p⟩)
    ∨ (p.length ≠ 0 ∧ fecEncode p ≠ fcs ∧ fcs.length ≠ fcsLength p.length
        ∧ fecCorrect mode p fcs = ⟨.uncorrectable, 0, false, p⟩)
    ∨ (p.length ≠ 0 ∧ fecEncode p ≠ fcs ∧ fcs.length = fcsLength p.length
        ∧ 1 ≤ syndrome p fcs ∧ syndrome p fcs ≤ 8 * p.length ∧ parityMismatch mode p fcs = true
        ∧ fecCorrect mode p fcs = ⟨.corrected, syndrome p fcs, true, flipDataBit p (syndrome p fcs)⟩)
    ∨ (p.length ≠ 0 ∧ fecEncode p ≠ fcs ∧ fcs.length = fcsLength p.length
        ∧ ¬ (1 ≤ syndrome p fcs ∧ syndrome p fcs ≤ 8 * p.length ∧ parityMismatch mode p fcs = true)
        ∧ fecCorrect mode p fcs = ⟨.uncorrectable, syndrome p fcs, parityMismatch mode p fcs, p⟩) := by
  unfold fecCorrect fecVerify
  by_cases h0 : p.length = 0
  · exact .inl ⟨h0, if_pos h0⟩
  rw [if_neg h0]
  by_cases h1 : fecEncode p = fcs
  · exact .inr (.inl ⟨h0, h1, if_pos (by simpa using h1)⟩)
  rw [if_neg (by simpa using h1)]
  by_cases h2 : fcs.length = fcsLength p.length
  · rw [if_neg (by simpa using h2)]
    dsimp only
    by_cases h3 : syndrome p fcs = 0 ∧ parityMismatch mode p fcs = true
    · rw [if_pos h3]
      exact .inr (.inr (.inr (.inr ⟨h0, h1, h2, by omega, rfl⟩)))
    · rw [if_neg h3]
      by_cases h4 : 1 ≤ syndrome p fcs ∧ syndrome p fcs ≤ 8 * p.length ∧ parityMismatch mode p fcs = true
      · rw [if_pos h4]
        exact .inr (.inr (.inr (.inl ⟨h0, h1, h2, h4.1, h4.2.1, h4.2.2, by rw [h4.2.2]⟩)))
      · rw [if_neg h4]
        exact .inr (.inr (.inr (.inr ⟨h0, h1, h2, h4, rfl⟩)))
  · rw [if_pos h2]
    exact .inr (.inr (.inl ⟨h0, h1, h2, rfl⟩))

/-! ### FRM. -/

theorem serialize_length (f : Frame) : (serialize f).length = 4 + f.payload.length + f.fcs.length := by
  simp only [serialize, List.length_append, List.length_cons, List.length_nil]; omega

theorem serialize_head (f : Frame) : (serialize f).head? = some 0x0B := rfl

theorem serialize_last (f : Frame) : (serialize f).getLast? = some 0x0C := by
  simp only [serialize, List.getLast?_concat]; rfl

/-- The tests of `deserialize`, in their order (R104, R105, R107). -/
theorem deserialize_cases (b : Bytes) :
    (b.length < 5 ∧ deserialize b = .error .errFrameShort)
    ∨ (5 ≤ b.length ∧ (b.head? ≠ some 0x0B ∨ b.getLast? ≠ some 0x0C) ∧ deserialize b = .error .errFrameFlags)
    ∨ (70 < b.length ∧ b.head? = some 0x0B ∧ b.getLast? = some 0x0C ∧ deserialize b = .error .errFrameOversize)
    ∨ (5 ≤ b.length ∧ b.length ≤ 70 ∧ b.head? = some 0x0B ∧ b.getLast? = some 0x0C ∧ ∃ n,
        n = b.length - 4 - (if 20 < b.length then 2 else 1) ∧ n ≤ 64
        ∧ deserialize b = .ok ⟨b.getD 1 0, b.getD 2 0, slice b 3 (3 + n), slice b (3 + n) (b.length - 1)⟩) := by
  unfold deserialize
  by_cases h0 : b.length < 5
  · exact .inl ⟨h0, if_pos h0⟩
  rw [if_neg (show ¬ b.length < Config.minFrame from h0)]
  by_cases h1 : b.head? ≠ some 0x0B ∨ b.getLast? ≠ some 0x0C
  · exact .inr (.inl ⟨by omega, h1, if_pos h1⟩)
  rw [if_neg (show ¬ (b.head? ≠ some Config.startFlag ∨ b.getLast? ≠ some Config.endFlag) from h1)]
  have hh : b.head? = some 0x0B ∧ b.getLast? = some 0x0C := by
    simpa only [ne_eq, not_or, Decidable.not_not] using h1
  by_cases h2 : 64 < b.length - 4 - (if 20 < b.length then 2 else 1)
  · exact .inr (.inr (.inl ⟨by split at h2 <;> omega, hh.1, hh.2, if_pos h2⟩))
  · exact .inr (.inr (.inr
      ⟨by omega, by split at h2 <;> omega, hh.1, hh.2, _, rfl, by omega, if_neg h2⟩))

end Sys2Proof.Machine
end

