-- ==== Sys2Proof/Laws/HostSide.lean ====
section
/-! SUPPORT. What a move of a host's procedure can do, said once (spec/43_segment_reassemble.md R172). -/

namespace Sys2Proof.Machine

@[simp] theorem HostRun.run_nil (h : HostRun) : h.run [] = .next h := rfl

/-- A run is a run of its first moves, then of the others. -/
theorem HostRun.run_append {ms ms' : List HostMove} {h h' : HostRun} (hr : h.run ms = .next h') :
    h.run (ms ++ ms') = h'.run ms' := by
  induction ms generalizing h with
  | nil => cases hr; rfl
  | cons m ms ih =>
    simp only [HostRun.run, List.cons_append] at hr ⊢
    cases hm : h.move m with
    | next g => rw [hm] at hr; exact ih hr
    | fault r => rw [hm] at hr; cases hr
    | refused r => rw [hm] at hr; cases hr

/-- A move is a step of HSB: the procedure's own packet, or the transition that is next; a procedure that is done does
nothing. -/
theorem HostRun.move_cases {h h' : HostRun} {m : HostMove} (hm : h.move m = .next h') :
    (m = .procedure ∧ h.todo = [] ∧ h' = h)
      ∨ (∃ a rest t, m = .procedure ∧ h.todo = a :: rest
        ∧ step { h.state with sched := .host a.packet :: h.state.sched } = .next t ∧ h' = a.answered rest h.log t)
      ∨ (∃ t, m = .other ∧ step h.state = .next t ∧ h' = { h with state := t }) := by
  unfold HostRun.move at hm
  split at hm
  · rename_i a rest ht
    cases hs : step { h.state with sched := .host a.packet :: h.state.sched } with
    | next t => rw [hs] at hm; exact .inr (.inl ⟨a, rest, t, rfl, ht, hs, by cases hm; rfl⟩)
    | fault r => rw [hs] at hm; cases hm
    | refused r => rw [hs] at hm; cases hm
  · rename_i ht
    exact .inl ⟨rfl, ht, by cases hm; rfl⟩
  · cases hs : step h.state with
    | next t => rw [hs] at hm; exact .inr (.inr ⟨t, rfl, rfl, by cases hm; rfl⟩)
    | fault r => rw [hs] at hm; cases hm
    | refused r => rw [hs] at hm; cases hm

/-- The poll of a wait reads the fields of the MAC and changes nothing but the response (spec/45_mac.md R212). -/
theorem step_poll (s : State) (rest : List Turn) :
    step { s with sched := .host HostAction.awaitQuiet.packet :: rest } = execMacStatus { s with sched := rest } := rfl

/-- The answer of `MAC.STATUS` says quiet exactly when the MAC is quiet (spec/10_state.md R24). -/
theorem quietCode_status (s : State) (results : Bytes) :
    quietCode (Status.ok.code :: s.macState.code :: results)
      = if s.macState.busy then none else some s.macState.code := by
  cases h : s.macState <;> rfl

/-- A wait goes on while the MAC is busy, and ends, logging the state read, when it is quiet (R172). -/
theorem HostRun.move_awaitQuiet (rest : List HostAction) (log : List Byte) (s : State) :
    ∃ r : Bytes, HostRun.move ⟨.awaitQuiet :: rest, log, s⟩ .procedure = .next
      (if s.macState.busy then ⟨.awaitQuiet :: rest, log, { s with response := r }⟩
      else ⟨rest, log ++ [s.macState.code], { s with response := r }⟩) := by
  refine ⟨Status.ok.code :: s.macState.code :: BitVec.ofNat 8 s.attempt.toNat :: BitVec.ofNat 8 s.txIdx.toNat ::
    be16 s.backoffCnt.toNat, ?_⟩
  simp only [HostRun.move, step_poll, execMacStatus, State.answer, HostAction.answered, quietCode_status]
  cases s.macState.busy <;> rfl

end Sys2Proof.Machine
end

