-- ==== Sys2Proof/Laws/PerInstr.lean ====
section
/-! SUPPORT. Families of statements about every operation as syntax, one lemma per constructor. -/

namespace Sys2Proof

theorem packetLength_eq {byteAt : Nat → Byte} {o : Opcode} (h : byteAt 0 = o.code) :
    packetLength byteAt =
      (match o.format with
      | .n => 1
      | .b => 2
      | .s => 3 + u16 (byteAt 1) (byteAt 2)
      | .p => 2 + (byteAt 1).toNat
      | .pf => 3 + (byteAt 1).toNat + (byteAt (2 + (byteAt 1).toNat)).toNat
      | .fr => 5 + (byteAt 3).toNat + (byteAt (4 + (byteAt 3).toNat)).toNat) := by
  unfold packetLength; rw [h, Opcode.ofByte_code] <;> (dsimp only; cases o.format <;> rfl)

namespace Laws.PacketShape

/-- A packet begins with its operation's opcode, and its own length fields say its length (spec/30_encoding.md R81,
R83: "lengths are exact"). -/
def Statement (i : Instr) : Prop :=
  (encode i).head? = some i.opcode.code
    ∧ (i.encodable = true → packetLength (fun k => (encode i).getD k 0) = (encode i).length)

theorem formatN {i : Instr} (hf : i.opcode.format = .n) (ho : i.operandBytes = []) : Statement i :=
  ⟨rfl, fun _ => by rw [packetLength_eq (o := i.opcode) rfl, hf]; simp [encode, ho]⟩

theorem formatB {i : Instr} {a : Byte} (hf : i.opcode.format = .b) (ho : i.operandBytes = [a]) : Statement i :=
  ⟨rfl, fun _ => by rw [packetLength_eq (o := i.opcode) rfl, hf]; simp [encode, ho]⟩

theorem formatS {i : Instr} {data : Bytes} (hf : i.opcode.format = .s) (ho : i.operandBytes = encodeS data)
    (hl : i.encodable = true → data.length < 65536) : Statement i :=
  ⟨rfl, fun h => by
    rw [packetLength_eq (o := i.opcode) rfl, hf]
    simp only [encode, ho, encodeS, be16, List.cons_append, List.nil_append, List.getD_cons_succ, List.getD_cons_zero,
      u16_be16 (hl h), List.length_cons]
    omega⟩

theorem formatP {i : Instr} {p : Bytes} (hf : i.opcode.format = .p) (ho : i.operandBytes = encodeP p)
    (hl : i.encodable = true → p.length < 256) : Statement i :=
  ⟨rfl, fun h => by
    rw [packetLength_eq (o := i.opcode) rfl, hf]
    simp only [encode, ho, encodeP, List.getD_cons_succ, List.getD_cons_zero, len8_toNat (hl h), List.length_cons]
    omega⟩

/-- The length byte of the second field stands right after the first field. -/
theorem getD_after (p q : Bytes) (x : Byte) : (p ++ x :: q).getD p.length 0 = x := by simp

theorem formatPF {i : Instr} {p f : Bytes} (hf : i.opcode.format = .pf) (ho : i.operandBytes = encodePF p f)
    (hl : i.encodable = true → p.length < 256 ∧ f.length < 256) : Statement i :=
  ⟨rfl, fun h => by
    rw [packetLength_eq (o := i.opcode) rfl, hf]
    simp only [encode, ho, encodePF, encodeP, List.cons_append, List.getD_cons_succ, List.getD_cons_zero,
      len8_toNat (hl h).1, Nat.add_comm 2, List.getD_cons_succ, getD_after, len8_toNat (hl h).2, List.length_cons,
      List.length_append]
    omega⟩

theorem formatFR {i : Instr} {t q : Byte} {p f : Bytes} (hf : i.opcode.format = .fr)
    (ho : i.operandBytes = t :: q :: encodePF p f) (hl : i.encodable = true → p.length < 256 ∧ f.length < 256) :
    Statement i :=
  ⟨rfl, fun h => by
    rw [packetLength_eq (o := i.opcode) rfl, hf]
    simp only [encode, ho, encodePF, encodeP, List.cons_append, List.getD_cons_succ, List.getD_cons_zero,
      len8_toNat (hl h).1, Nat.add_comm 4, List.getD_cons_succ, getD_after, len8_toNat (hl h).2, List.length_cons,
      List.length_append]
    omega⟩

theorem fecKcount (n : Byte) : Statement (.fecKcount n) := formatB rfl rfl
theorem fecEncode (p : Bytes) : Statement (.fecEncode p) := formatP rfl rfl (by simp [Instr.encodable])
theorem fecVerify (p f : Bytes) : Statement (.fecVerify p f) := formatPF rfl rfl (by simp [Instr.encodable])
theorem fecCorrect (p f : Bytes) : Statement (.fecCorrect p f) := formatPF rfl rfl (by simp [Instr.encodable])
theorem frmSerialize (t q : Byte) (p f : Bytes) : Statement (.frmSerialize t q p f) :=
  formatFR rfl rfl (by simp [Instr.encodable])
theorem frmDeserialize (b : Bytes) : Statement (.frmDeserialize b) := formatS rfl rfl (by simp [Instr.encodable])
theorem frmCheck (b : Bytes) : Statement (.frmCheck b) := formatS rfl rfl (by simp [Instr.encodable])
theorem stfStuff (b : Bytes) : Statement (.stfStuff b) := formatS rfl rfl (by simp [Instr.encodable])
theorem stfUnstuff (b : Bytes) : Statement (.stfUnstuff b) := formatS rfl rfl (by simp [Instr.encodable])
theorem segSegment (m : Bytes) : Statement (.segSegment m) := formatS rfl rfl (by simp [Instr.encodable])
theorem rxFind (b : Bytes) : Statement (.rxFind b) := formatS rfl rfl (by simp [Instr.encodable])
theorem rxDeliver (c : Bytes) : Statement (.rxDeliver c) := formatS rfl rfl (by simp [Instr.encodable])
theorem injInject (p : Bytes) : Statement (.injInject p) := formatP rfl rfl (by simp [Instr.encodable])
theorem macSend (w : Bytes) : Statement (.macSend w) := formatS rfl rfl (by simp [Instr.encodable])
theorem macStatus : Statement .macStatus := formatN rfl rfl
theorem macSetEmu (a : Byte) : Statement (.macSetEmu a) := formatB rfl rfl
theorem macStatsReset : Statement .macStatsReset := formatN rfl rfl
theorem macStats : Statement .macStats := formatN rfl rfl
theorem macBkdelay (a : Byte) : Statement (.macBkdelay a) := formatB rfl rfl

end Laws.PacketShape

end Sys2Proof
end

