-- ==== Sys2Proof/Tests/Slice0.lean ====
section
/-! SUPPORT. Tests: expected results are those of spec/95_test_vectors.md or hand calculations from the rules; and, for
every statement with hypotheses, a concrete state and operands that meet them. -/

namespace Sys2Proof.Tests

open Sys2Proof Sys2Proof.Machine

/- One theorem at a time: elaborated together, the kernel evaluations below hold many waiting threads. -/
set_option Elab.async false

/-! ### Helpers. -/

/-- The host presents `packet` in state `s`, the environment answering `draws`: is the response `answer`? -/
def answers (s : State) (draws : List Nat) (packet answer : Bytes) : Bool :=
  match step { s with sched := [.host packet], draws := draws } with
  | .next t => t.response == answer
  | .fault _ => false
  | .refused _ => false

/-- One step of a state with one scheduled turn, seen through `view`. -/
def after {α : Type} [BEq α] (s : State) (turn : Turn) (draws : List Nat) (view : State → α) (expected : α) : Bool :=
  match step { s with sched := [turn], draws := draws } with
  | .next t => view t == expected
  | .fault _ => false
  | .refused _ => false

/-- The frame of the message "HI" (S1 of the vectors). -/
def hi : Bytes := [0x0B, 0x01, 0x01, 0x48, 0x49, 0x08, 0x0C]

/-- A MAC with the frame `hi` latched, in emulation mode. -/
def sending (m : MacState) (attempt : BitVec 5) (txIdx : BitVec 8) (cnt : BitVec 10) : State :=
  { State.reset with macState := m, attempt := attempt, txIdx := txIdx, backoffCnt := cnt, txf := hi, emuEn := true }

/-- A `RECOMPUTED` HSB. -/
def recomputed : State := { State.reset with params := ⟨some 1024, .recomputed⟩ }

/-! ### The operand ranges: one ill-formed term for each check, which the check refuses. -/

theorem test_payload_range :
    (Instr.fecEncode (List.replicate 65 0)).wellFormed = false ∧ (Instr.fecEncode (List.replicate 64 0)).wellFormed = true
      ∧ (Instr.fecVerify (List.replicate 65 0) []).wellFormed = false
      ∧ (Instr.fecCorrect (List.replicate 65 0) []).wellFormed = false
      ∧ (Instr.frmSerialize 1 1 (List.replicate 65 0) [0]).wellFormed = false
      ∧ (Instr.injInject (List.replicate 65 0)).wellFormed = false := by decide

theorem test_fcs_range :
    (Instr.fecVerify [] [0, 0, 0]).wellFormed = false ∧ (Instr.fecCorrect [] [0, 0, 0]).wellFormed = false
      ∧ (Instr.frmSerialize 1 1 [] []).wellFormed = false ∧ (Instr.frmSerialize 1 1 [] [0, 0, 0]).wellFormed = false
      ∧ (Instr.fecVerify [] []).wellFormed = true := by decide

theorem test_sequence_range :
    (Instr.stfStuff (List.replicate 71 0)).wellFormed = false ∧ (Instr.macSend []).wellFormed = false
      ∧ (Instr.macSend (List.replicate 139 0)).wellFormed = false
      ∧ (Instr.macSend (List.replicate 138 0)).wellFormed = true
      ∧ (Instr.segSegment (List.replicate 16321 0)).wellFormed = false := by
  simp only [Instr.wellFormed, List.length_replicate, List.length_nil]; decide

theorem test_flag_range : (Instr.macSetEmu 2).wellFormed = false ∧ (Instr.macSetEmu 1).wellFormed = true := by decide

theorem test_len16_range :
    (Instr.frmDeserialize (List.replicate 65536 0)).wellFormed = false
      ∧ (Instr.frmCheck (List.replicate 65536 0)).wellFormed = false
      ∧ (Instr.stfUnstuff (List.replicate 65536 0)).wellFormed = false
      ∧ (Instr.rxFind (List.replicate 65536 0)).wellFormed = false
      ∧ (Instr.rxDeliver (List.replicate 65536 0)).wellFormed = false := by
  simp only [Instr.wellFormed, List.length_replicate]; decide

theorem test_packet_widths :
    (Instr.fecEncode (List.replicate 256 0)).encodable = false
      ∧ (Instr.fecVerify [] (List.replicate 256 0)).encodable = false
      ∧ (Instr.segSegment (List.replicate 65536 0)).encodable = false := by
  simp only [Instr.encodable, List.length_replicate, List.length_nil]; decide

/-! ### Decoding: every operation from a packet written out from R83 and R86. -/

theorem test_decode_fec :
    decode [0x10, 0x02] = .ok (.fecKcount 2) ∧ decode [0x11, 0x02, 0x48, 0x49] = .ok (.fecEncode [0x48, 0x49])
      ∧ decode [0x12, 0x02, 0x48, 0x49, 0x01, 0x08] = .ok (.fecVerify [0x48, 0x49] [0x08])
      ∧ decode [0x13, 0x02, 0x68, 0x49, 0x01, 0x08] = .ok (.fecCorrect [0x68, 0x49] [0x08]) := by decide

theorem test_decode_frm :
    decode [0x20, 0x03, 0x02, 0x02, 0x48, 0x49, 0x01, 0x08] = .ok (.frmSerialize 3 2 [0x48, 0x49] [0x08])
      ∧ decode ([0x21, 0x00, 0x07] ++ hi) = .ok (.frmDeserialize hi)
      ∧ decode ([0x22, 0x00, 0x07] ++ hi) = .ok (.frmCheck hi) := by decide

theorem test_decode_stf_seg_rx :
    decode ([0x30, 0x00, 0x07] ++ hi) = .ok (.stfStuff hi) ∧ decode ([0x31, 0x00, 0x07] ++ hi) = .ok (.stfUnstuff hi)
      ∧ decode [0x40, 0x00, 0x02, 0x48, 0x49] = .ok (.segSegment [0x48, 0x49])
      ∧ decode ([0x41, 0x00, 0x07] ++ hi) = .ok (.rxFind hi)
      ∧ decode ([0x42, 0x00, 0x07] ++ hi) = .ok (.rxDeliver hi) := by decide

theorem test_decode_inj_mac :
    decode [0x50, 0x02, 0x48, 0x49] = .ok (.injInject [0x48, 0x49])
      ∧ decode ([0x60, 0x00, 0x07] ++ hi) = .ok (.macSend hi) ∧ decode [0x61] = .ok .macStatus
      ∧ decode [0x62, 0x01] = .ok (.macSetEmu 1) ∧ decode [0x63] = .ok .macStatsReset
      ∧ decode [0x64] = .ok .macStats ∧ decode [0x65, 0x0A] = .ok (.macBkdelay 10) := by decide

/-- The high byte of `len16` comes first (R56). -/
theorem test_decode_len16 : decode ([0x42, 0x01, 0x02] ++ List.replicate 258 0xAA)
    = .ok (.rxDeliver (List.replicate 258 0xAA)) := by decide +kernel

/-- V-DEC-1. -/
theorem test_decode_errors :
    decodeCommand [] = .error .errFormat ∧ decodeCommand [0x00] = .error .errIllegalOp
      ∧ decodeCommand [0x14] = .error .errIllegalOp ∧ decodeCommand [0x43, 0x00, 0x00] = .error .errIllegalOp
      ∧ decodeCommand [0x66] = .error .errIllegalOp ∧ decodeCommand [0x7F, 0x01, 0x02] = .error .errIllegalOp
      ∧ decodeCommand [0x61, 0x00] = .error .errFormat ∧ decodeCommand [0x10] = .error .errFormat
      ∧ decodeCommand [0x11, 0x02, 0x48] = .error .errFormat ∧ decodeCommand [0x11, 0x41, 0x00] = .error .errFormat
      ∧ decodeCommand [0x30, 0x00, 0x02, 0x0B] = .error .errFormat
      ∧ decodeCommand [0x12, 0x02, 0x48, 0x49, 0x01] = .error .errFormat
      ∧ decodeCommand [0x12, 0x02, 0x48, 0x49, 0x03, 0x08, 0x00, 0x00] = .error .errOperand
      ∧ decodeCommand [0x62, 0x02] = .error .errOperand ∧ decodeCommand [0x20, 0x01, 0x01, 0x00, 0x00] = .error .errOperand := by
  decide

/-- Every byte that is not one of the nineteen opcodes is illegal (R87). -/
theorem test_opcode_count : ((List.range 256).filter fun b => (Opcode.ofByte (BitVec.ofNat 8 b)).isSome).length = 19 := by
  decide +kernel

/-- The bits of a table row, with the operand bytes zero. -/
theorem test_table_words :
    decodeTableWord 16 0x0210 = some (.fecKcount 2) ∧ decodeTableWord 8 0x61 = some .macStatus
      ∧ decodeTableWord 8 0x42 = some (.rxDeliver []) ∧ decodeTableWord 8 0x13 = some (.fecCorrect [] [])
      ∧ decodeTableWord 32 0x49480250 = some (.injInject [0x48, 0x49]) ∧ decodeTableWord 8 0x14 = none := by decide

/-- `withFetchWord` makes the packet the very next one. -/
theorem test_fetch_word :
    (match step (State.reset.withFetchWord 8 0x61) with
      | .next t => t.response == [0, 0, 0, 0, 0, 0]
      | .fault _ => false
      | .refused _ => false) = true := by decide

/-! ### FEC. -/

/-- V-FEC-1. -/
theorem test_kcount :
    answers State.reset [] [0x10, 0x02] [0, 5] ∧ answers State.reset [] [0x10, 0x00] [0, 0]
      ∧ answers State.reset [] [0x10, 0x40] [0, 0x0A] ∧ answers State.reset [] [0x10, 0xFF] [0, 0x0B] := by decide +kernel

/-- V-FEC-2. -/
theorem test_encode :
    answers State.reset [] [0x11, 0x00] [0, 1, 0] ∧ answers State.reset [] [0x11, 0x01, 0xFF] [0, 1, 0x18]
      ∧ answers State.reset [] [0x11, 0x02, 0x48, 0x49] [0, 1, 0x08]
      ∧ answers State.reset [] [0x11, 0x03, 0x0B, 0x7D, 0x0C] [0, 1, 0xEC]
      ∧ answers State.reset [] ([0x11, 0x10] ++ (List.range 16).map (BitVec.ofNat 8)) [0, 2, 0x01, 0x80] := by
  decide +kernel

/-- 64 bytes: positions up to 512 and the two bytes of the FCS. -/
theorem test_encode_longest :
    answers State.reset [] ([0x11, 0x40] ++ (List.range 64).map fun i => BitVec.ofNat 8 (i + 1)) [0, 2, 0x5F, 0x20] = true := by
  decide +kernel

/-- V-FEC-3. -/
theorem test_verify :
    answers State.reset [] [0x12, 0x02, 0x48, 0x49, 0x01, 0x08] [0, 1]
      ∧ answers State.reset [] [0x12, 0x02, 0x48, 0x49, 0x01, 0x0C] [0, 0]
      ∧ answers State.reset [] [0x12, 0x02, 0x48, 0x49, 0x01, 0x09] [0, 0]
      ∧ answers State.reset [] [0x12, 0x02, 0x48, 0x49, 0x02, 0x08, 0x00] [0, 0]
      ∧ answers State.reset [] [0x12, 0x00, 0x00] [0, 0] := by decide +kernel

/-- V-FEC-4 to V-FEC-6, mode `RECEIVED`. -/
theorem test_correct :
    answers State.reset [] [0x13, 0x02, 0x68, 0x49, 0x01, 0x08] [0, 1, 0, 3, 1, 2, 0x48, 0x49]
      ∧ answers State.reset [] [0x13, 0x02, 0x48, 0x49, 0x01, 0x0C] [0, 2, 0, 0, 1, 2, 0x48, 0x49]
      ∧ answers State.reset [] [0x13, 0x02, 0x88, 0x49, 0x01, 0x08] [0, 2, 0, 3, 0, 2, 0x88, 0x49]
      ∧ answers State.reset [] [0x13, 0x02, 0xC8, 0x49, 0x01, 0x88] [0, 0, 0, 0, 0, 2, 0xC8, 0x49]
      ∧ answers State.reset [] [0x13, 0x00, 0x00] [0, 0xFF, 0, 0, 0, 0]
      ∧ answers State.reset [] [0x13, 0x03, 0x61, 0x62, 0x63, 0x01, 0x08] [0, 2, 0, 0x19, 1, 3, 0x61, 0x62, 0x63] := by
  decide +kernel

/-- V-FEC-4 and V-FEC-5, mode `RECOMPUTED`. -/
theorem test_correct_recomputed :
    answers recomputed [] [0x13, 0x02, 0xC8, 0x49, 0x01, 0x08] [0, 2, 0, 1, 0, 2, 0xC8, 0x49]
      ∧ answers recomputed [] [0x13, 0x02, 0x68, 0x49, 0x01, 0x08] [0, 1, 0, 3, 1, 2, 0x48, 0x49]
      ∧ answers recomputed [] [0x13, 0x02, 0xE8, 0x49, 0x01, 0x08] [0, 1, 0, 2, 1, 2, 0xA8, 0x49] := by decide +kernel

/-! ### FRM. -/

/-- V-FRM-1. -/
theorem test_serialize :
    answers State.reset [] [0x20, 1, 2, 0x02, 0x48, 0x49, 0x01, 0x08]
        [0, 0, 7, 0x0B, 1, 2, 0x48, 0x49, 0x08, 0x0C]
      ∧ answers State.reset [] [0x20, 1, 1, 0, 0] [3] := by decide +kernel

/-- V-FRM-2: the tests in their order. -/
theorem test_deserialize :
    answers State.reset [] [0x21, 0, 4, 0x0A, 1, 1, 0x0C] [0x10]
      ∧ answers State.reset [] [0x21, 0, 5, 0x0A, 1, 1, 0, 0x0C] [0x11]
      ∧ answers State.reset [] [0x21, 0, 5, 0x0B, 7, 9, 0x55, 0x0C] [0, 7, 9, 0, 1, 0x55]
      ∧ answers State.reset [] ([0x21, 0, 71, 0x0B, 1, 1] ++ List.replicate 67 0 ++ [0x0C]) [0x12] := by decide +kernel

/-- V-FRM-2: the split at 20 and 21 bytes. -/
theorem test_deserialize_split :
    answers State.reset [] ([0x21, 0, 20, 0x0B, 1, 1] ++ List.replicate 15 0 ++ [0, 0x0C])
        ([0, 1, 1, 15] ++ List.replicate 15 0 ++ [1, 0])
      ∧ answers State.reset [] ([0x21, 0, 21, 0x0B, 1, 1] ++ List.replicate 15 0 ++ [0, 0, 0x0C])
        ([0, 1, 1, 15] ++ List.replicate 15 0 ++ [2, 0, 0]) := by decide +kernel

theorem test_check :
    answers State.reset [] [0x22, 0, 5, 0x0B, 0, 0, 0, 0x0C] [0, 1]
      ∧ answers State.reset [] [0x22, 0, 4, 0x0B, 0, 0, 0x0C] [0, 0]
      ∧ answers State.reset [] [0x22, 0, 5, 0x0B, 0, 0, 0, 0] [0, 0] := by decide +kernel

/-! ### STF. -/

/-- V-STF-1. -/
theorem test_stuff :
    answers State.reset [] [0x30, 0, 6, 0x0B, 0x0B, 0x7D, 0x48, 0x08, 0x0C]
        [0, 0, 8, 0x0B, 0x7D, 0x5B, 0x7D, 0x2D, 0x48, 0x08, 0x0C]
      ∧ answers State.reset [] [0x30, 0, 3, 0x7D, 0x7D, 0x0B] [0, 0, 4, 0x7D, 0x7D, 0x2D, 0x0B]
      ∧ answers State.reset [] [0x30, 0, 1, 0x0B] [0, 0, 1, 0x0B] := by decide +kernel

theorem test_unstuff :
    answers State.reset [] [0x31, 0, 8, 0x0B, 0x7D, 0x5B, 0x7D, 0x2D, 0x48, 0x08, 0x0C]
        [0, 0, 6, 0x0B, 0x0B, 0x7D, 0x48, 0x08, 0x0C]
      ∧ answers State.reset [] [0x31, 0, 4, 0x0B, 0x7D, 0x7D, 0x0C] [0, 0, 3, 0x0B, 0x2D, 0x0C]
      ∧ answers State.reset [] [0x31, 0, 2, 0x7D, 0x0C] [0, 0, 2, 0x7D, 0x0C]
      ∧ answers State.reset [] [0x31, 0, 6, 0x0B, 1, 1, 0x48, 0x7D, 0x0C] [0x20] := by decide +kernel

/-! ### SEG and RX. -/

theorem test_segment :
    answers State.reset [] [0x40, 0, 0] [0, 1, 1, 1, 0, 1, 0]
      ∧ answers State.reset [] [0x40, 0, 2, 0x48, 0x49] [0, 1, 1, 1, 2, 0x48, 0x49, 1, 0x08] := by decide +kernel

theorem test_segment_two_frames :
    answers State.reset [] ([0x40, 0, 65] ++ List.replicate 65 0)
      ([0, 2, 2, 1, 64] ++ List.replicate 64 0 ++ [2, 0, 0, 2, 2, 1, 0, 1, 0]) = true := by decide +kernel

/-- V-RX-1. -/
theorem test_find :
    answers State.reset [] [0x41, 0, 10, 0xAA, 0x0B, 0x0B, 1, 1, 0x48, 0x49, 8, 0x0C, 0x55] [0, 0, 2, 0, 9]
      ∧ answers State.reset [] [0x41, 0, 6, 0x0B, 0x0C, 0x0C, 0x41, 8, 0x0C] [0, 0, 0, 0, 6]
      ∧ answers State.reset [] [0x41, 0, 5, 0x0B, 0x0B, 0x0B, 0x0B, 0x0C] [0, 0, 0, 0, 0] := by decide +kernel

/-- S1, and V-RX-9. -/
theorem test_deliver :
    answers State.reset [] ([0x42, 0, 7] ++ hi) [0, 0, 0, 0, 0, 0, 0, 1, 1, 1, 0, 0, 1, 2, 0x48, 0x49]
      ∧ answers State.reset [] ([0x42, 0, 11, 0x0B, 1, 1, 0x48] ++ hi)
        [0, 0, 0, 0, 0, 0, 0, 1, 1, 1, 1, 0, 1, 6, 0x48, 3, 1, 1, 0x48, 0x49] := by decide +kernel

/-- P2 line 24: a jam run, a resynchronisation, a frame; with V-INJ-2's first draws the frame is damaged and corrected. -/
theorem test_deliver_resync_and_injection :
    answers { State.reset with rxb := [0x0B, 1] } [] ([0x42, 0, 11, 0xFF, 0xFF, 0xFF, 0xFF] ++ hi)
        [0, 0, 1, 1, 0, 0, 0, 1, 1, 1, 0, 0, 1, 2, 0x48, 0x49]
      ∧ answers (sending .idle 0 0 0) [0, 0, 0] ([0x42, 0, 7] ++ hi)
        [0, 0, 0, 0, 0, 0, 0, 1, 1, 1, 1, 1, 1, 2, 0x48, 0x49] := by decide +kernel

/-- The channel's delivery is the same command (R80); an overflow empties the buffer (R179). -/
theorem test_channel_turn :
    after State.reset (.channel [0x0B, 1]) [] (·.rxb) [0x0B, 1]
      ∧ after { State.reset with rxb := [1], params := ⟨some 2, .received⟩ } (.channel [2, 3]) []
        (fun t => (t.rxb, t.evTrace, t.response)) ([], [.rxOverflow], [0x50]) := by decide +kernel

/-- V-STF-2's `7D 7D 7D` before the last byte; pairs followed by further bytes. -/
theorem test_unstuff_pairs :
    answers State.reset [] [0x31, 0, 5, 0x0B, 0x7D, 0x7D, 0x7D, 0x0C] [0x20]
      ∧ answers State.reset [] [0x31, 0, 8, 0x0B, 0x7D, 0x00, 0x41, 0x7D, 0x0C, 0x7E, 0x0C]
        [0, 0, 6, 0x0B, 0x50, 0x41, 0x5C, 0x7E, 0x0C] := by decide +kernel

/-- R181's frame that unstuffs to `0B 0B 0B 0C` is dropped; the bytes behind it stay. -/
theorem test_deliver_drop :
    after State.reset (.channel [0x0B, 0x7D, 0x5B, 0x7D, 0x5B, 0x0C, 0x0B, 1]) []
      (fun t => (t.rxb, t.evTrace, t.response))
      ([0x0B, 1], [.frameDropped .errFrameShort], [0, 0, 0, 0, 0, 1, 0, 0]) = true := by decide +kernel

/-! ### INJ. -/

/-- V-INJ-1. -/
theorem test_inject :
    answers State.reset [0, 0, 0] [0x50, 2, 0x48, 0x49] [0, 1, 2, 0x49, 0x49]
      ∧ answers State.reset [1, 0, 7, 1, 0] [0x50, 2, 0x48, 0x49] [0, 2, 2, 0xC8, 0x48]
      ∧ answers State.reset [1, 1, 3, 1, 3] [0x50, 2, 0x48, 0x49] [0, 2, 2, 0x48, 0x49]
      ∧ answers State.reset [] [0x50, 0] [0, 0, 0] := by decide +kernel

/-! ### MAC. -/

theorem test_send :
    after { State.reset with emuEn := true, jamFlag := true } (.host ([0x60, 0, 7] ++ hi)) []
        (fun t => (t.macState, t.txf, t.jamFlag, t.response)) (.sense, hi, false, [0])
      ∧ answers (sending .collided 0 0 0) [] ([0x60, 0, 7] ++ hi) [0x40] := by decide +kernel

/-- P1 line 5, and the failed write. -/
theorem test_send_direct :
    after State.reset (.host ([0x60, 0, 7] ++ hi)) [1]
        (fun t => (t.macState, t.txTrace, t.evTrace, t.response)) (.idle, hi, [.txDone true], [0])
      ∧ after State.reset (.host ([0x60, 0, 7] ++ hi)) [0]
        (fun t => (t.macState, t.txTrace, t.evTrace, t.response)) (.idle, [], [.txDone false], [0x41]) := by
  decide +kernel

/-- P2 line 9; the counter in two bytes. -/
theorem test_status :
    answers (sending .collided 1 2 0) [] [0x61] [0, 4, 1, 2, 0, 0]
      ∧ answers (sending .backoff 12 3 0x3FE) [] [0x61] [0, 5, 12, 3, 3, 0xFE] := by decide +kernel

theorem test_set_emu :
    after State.reset (.host [0x62, 1]) [] (fun t => (t.emuEn, t.response)) (true, [0])
      ∧ after (sending .idle 0 0 0) (.host [0x62, 0]) [] (fun t => (t.emuEn, t.response)) (false, [0]) := by decide +kernel

theorem test_stats_reset :
    after { State.reset with collisionCount := 7, jamFlag := true, emuEn := true } (.host [0x63]) []
      (fun t => (t.collisionCount, t.jamFlag, t.emuEn, t.response)) (0, false, true, [0]) = true := by decide +kernel

theorem test_stats :
    answers { State.reset with collisionCount := 0x01020304, jamFlag := true } [] [0x64] [0, 1, 2, 3, 4, 1, 0] = true := by
  decide +kernel

/-- V-MAC-1. -/
theorem test_bkdelay :
    answers State.reset [9] [0x65, 0] [0, 0, 0] ∧ answers State.reset [5] [0x65, 3] [0, 0, 5]
      ∧ answers State.reset [1023] [0x65, 0x0A] [0, 3, 0xFF] ∧ answers State.reset [1023] [0x65, 0xC8] [0, 3, 0xFF] := by
  decide +kernel

/-! ### The sequencer, the slot timer, reset (P2, V-MAC-3). -/

theorem test_sense :
    after (sending .sense 1 2 0) .sequencer [0] (fun t => (t.macState, t.txIdx)) (.transmit, 0)
      ∧ after (sending .sense 2 2 0) .sequencer [1, 3] (fun t => (t.macState, t.backoffCnt, t.evTrace))
        (.backoff, 3, [.mediumBusy 2])
      ∧ after (sending .sense 16 6 0) .sequencer [] (fun t => (t.macState, t.evTrace)) (.giveUp, [.txDone false]) := by
  decide +kernel

theorem test_transmit :
    after (sending .transmit 0 2 0) .sequencer [0, 1] (fun t => (t.macState, t.txIdx, t.txTrace)) (.transmit, 3, [1])
      ∧ after (sending .transmit 0 6 0) .sequencer [0, 1] (fun t => (t.macState, t.txIdx, t.evTrace))
        (.success, 7, [.txDone true])
      ∧ after (sending .transmit 0 1 0) .sequencer [0, 0] (fun t => (t.macState, t.txTrace, t.evTrace))
        (.collided, [], [.collision 1 .write])
      ∧ after (sending .transmit 0 2 0) .sequencer [1] (fun t => (t.macState, t.evTrace))
        (.collided, [.collision 2 .trial]) := by decide +kernel

theorem test_collided_and_expiry :
    after (sending .collided 1 2 0) .sequencer [1, 1] (fun t => (t.macState, t.backoffCnt, t.txTrace, t.collisionCount))
        (.backoff, 1, [0xFF, 0xFF, 0xFF, 0xFF], 1)
      ∧ after (sending .backoff 1 2 1) .tick [] (fun t => (t.macState, t.backoffCnt)) (.backoff, 0)
      ∧ after (sending .backoff 1 2 0) .sequencer [] (fun t => (t.macState, t.attempt)) (.sense, 2) := by decide +kernel

/-- One move of `h`, seen through its actions left to do and its log. -/
def moved (h : HostRun) (m : HostMove) (todo : Nat) (log : List Byte) : Bool :=
  match h.move m with
  | .next h' => h'.todo.length == todo && h'.log == log
  | .fault _ => false
  | .refused _ => false

/-- R172, R299: the host waits while a frame is in flight, and goes on to the next frame after `GIVE_UP`. -/
theorem test_wait :
    moved ⟨[.awaitQuiet, .issue (.macSend hi)], [], sending .backoff 3 2 1⟩ .procedure 2 []
      ∧ moved ⟨[.awaitQuiet, .issue (.macSend hi)], [3], sending .giveUp 16 2 0⟩ .procedure 1 [3, 6]
      ∧ moved ⟨[.awaitQuiet, .issue (.macSend hi)], [], sending .backoff 3 2 1⟩ .other 2 [] := by decide +kernel

/-- R173: 130 bytes are three frames, sent one by one. -/
theorem test_message_actions :
    (txMessageActions (List.replicate 130 0x20)).length = 13
      ∧ (txMessageActions (List.replicate 130 0x20))[4]? = some .awaitQuiet := by decide +kernel

theorem test_reset :
    after { sending .backoff 3 2 5 with rxb := [1], txTrace := [9] } .reset []
      (fun t => (t.rxb, t.macState, t.attempt, t.backoffCnt, t.emuEn, t.txTrace)) ([], .idle, 0, 0, false, [9]) = true := by
  decide +kernel

/-! ### Witnesses: for every statement with hypotheses, a state and operands that meet them all, one for each clause. -/

theorem witness_PacketStepRunsDecodedOperation : decode [0x65, 0x0A] = .ok (.macBkdelay 10) := by decide

theorem witness_ChannelTurnIsRxDeliver : (List.replicate 65535 (0 : Byte)).length ≤ 65535 := by
  simp only [List.length_replicate]; decide

theorem witness_RefusedPacketOnlyAnswers :
    decodeCommand [] = .error .errFormat ∧ decodeCommand [0x7F] = .error .errIllegalOp
      ∧ decodeCommand [0x62, 0x02] = .error .errOperand := by decide

theorem witness_DecodeOfEncode :
    (Instr.fecCorrect (List.replicate 255 0) (List.replicate 255 0)).encodable = true
      ∧ (Instr.macSend (List.replicate 65535 0)).encodable = true := by
  simp only [Instr.encodable, List.length_replicate]; decide

theorem witness_OnlyEncodingsDecode : decode [0x62, 0x02] = .ok (.macSetEmu 2) := by decide

/-- The four clauses: an illegal opcode, a wrong length, an operand out of range, an operation. -/
theorem witness_DecoderReportsFirstFault :
    (∀ i : Instr, (encode i).head? ≠ some 0x14)
      ∧ ((∃ i : Instr, (encode i).head? = some 0x61) ∧ ∀ i : Instr, i.encodable = true → encode i ≠ 0x61 :: [0x00])
      ∧ ((Instr.macSetEmu 2).encodable = true ∧ encode (.macSetEmu 2) = 0x62 :: [0x02]
        ∧ (Instr.macSetEmu 2).wellFormed = false)
      ∧ ((Instr.macSetEmu 1).wellFormed = true ∧ encode (.macSetEmu 1) = 0x62 :: [0x01]) := by
  refine ⟨fun i => ?_, ⟨⟨.macStatus, rfl⟩, fun i _ => ?_⟩, by decide, by decide⟩
  · cases i <;> simp [encode, Instr.opcode, Opcode.code]
  · cases i <;> simp [encode, Instr.opcode, Opcode.code, Instr.operandBytes]

theorem witness_OperandOutOfRangeRefused :
    (Instr.macSetEmu 2).wellFormed = false ∧ (Instr.injInject (List.replicate 65 0)).wellFormed = false := by decide

theorem witness_ResponsesCarryTheirStatus : (Instr.segSegment (List.replicate 16321 0)).encodable = true := by
  simp only [Instr.encodable, List.length_replicate]; decide

/-- An error that changes nothing, and the overflow. -/
theorem witness_ErrorsAreLocal :
    exec (.macSend hi) (sending .sense 0 0 0) = .next { sending .sense 0 0 0 with response := [Status.code .errMacBusy] }
      ∧ ∃ t, exec (.rxDeliver [1, 2]) { State.reset with rxb := [3], params := ⟨some 2, .received⟩ } = .next t
        ∧ t.response = [Status.code .errRxOverflow] := ⟨rfl, _, rfl, rfl⟩

/-- A state in the middle of a frame keeps the invariants. -/
theorem witness_Inv : Inv { sending .transmit 15 6 0 with rxb := [0x0B, 1, 1, 1] } where
  rxbFits := by intro cap h; cases h; decide
  attemptBound := by decide
  attemptLast := by decide
  txIdxBound := by decide
  txfBound := by decide
  txIdxTransmit := by decide
  backoffBound := by decide
  backoffZero := by decide
  txfLatched := by decide
  rxbPartial := by decide
  successWhole := by decide
  giveUpLast := by decide

theorem witness_NoTransitionStopsHsb : ∃ s : State, Inv s ∧ s.macState = .transmit := ⟨_, witness_Inv, rfl⟩

theorem witness_InvKeptByEveryTransition : ∃ s t : State, Inv s ∧ step s = .next t ∧ t.macState = .collided :=
  ⟨{ sending .transmit 15 6 0 with rxb := [0x0B, 1, 1, 1], draws := [1] }, _,
    ⟨witness_Inv.1, witness_Inv.2, witness_Inv.3, witness_Inv.4, witness_Inv.5, witness_Inv.6, witness_Inv.7,
      witness_Inv.8, witness_Inv.9, witness_Inv.10, witness_Inv.11, witness_Inv.12⟩, rfl, rfl⟩

/-- The shortest and the longest payload and FCS that the FEC statements admit. -/
theorem witness_FecLengths :
    ([] : Bytes).length ≤ 64 ∧ (List.replicate 64 (0 : Byte)).length ≤ 64 ∧ ([0, 0] : Bytes).length ≤ 2 := by decide

theorem witness_EncodeReturnsHammingFcs :
    (List.replicate 64 (0xFF : Byte)).length ≤ 64 ∧ 64 < (List.replicate 65 (0xFF : Byte)).length := by decide

theorem witness_VerifyComparesWithEncode : ([0x48, 0x49] : Bytes).length ≤ 64 ∧ ([0x08] : Bytes).length ≤ 2 := by decide

/-- Each branch: the empty payload, no error, a wrong length, a corrected bit, a syndrome above `8n` (V-FEC-6), and
`pmis = 0` (V-FEC-4's double error). -/
theorem witness_CorrectFollowsR150 :
    (([] : Bytes).length ≤ 64 ∧ ([0, 0] : Bytes).length ≤ 2)
      ∧ fecEncode [0x48, 0x49] = [0x08] ∧ (fecEncode [0x48, 0x49]).length ≠ ([0x08, 0x00] : Bytes).length
      ∧ (fecEncode [0x68, 0x49] ≠ [0x08] ∧ syndrome [0x68, 0x49] [0x08] = 3
        ∧ parityMismatch .received [0x68, 0x49] [0x08] = true)
      ∧ (syndrome [0x61, 0x62, 0x63] [0x08] = 25 ∧ 8 * ([0x61, 0x62, 0x63] : Bytes).length < 25
        ∧ parityMismatch .received [0x61, 0x62, 0x63] [0x08] = true)
      ∧ parityMismatch .received [0x88, 0x49] [0x08] = false := by decide +kernel

/-- The empty payload with the longest FCS; 16 bytes, which take two FCS bytes, with one. -/
theorem witness_CorrectOnEmptyAndWrongLength :
    (([] : Bytes).length ≤ 64 ∧ ([0, 0] : Bytes).length ≤ 2)
      ∧ (List.replicate 16 (0 : Byte)).length ≤ 64 ∧ ([0] : Bytes).length ≤ 2 ∧ List.replicate 16 (0 : Byte) ≠ []
        ∧ ([0] : Bytes).length ≠ (kOf (List.replicate 16 (0 : Byte)).length + 1 + 7) / 8 := by
  have h : Nat.clog 2 129 = 8 := by decide +kernel
  refine ⟨by decide, by decide, by decide, by decide, ?_⟩
  simp only [kOf, List.length_replicate, Nat.reduceMul, Nat.reduceAdd, h]; decide

/-- The first and the last position of the longest payload. -/
theorem witness_SingleDataErrorCorrected :
    (List.replicate 64 (0 : Byte)).length ≤ 64 ∧ 1 ≤ 512 ∧ 512 ≤ 8 * (List.replicate 64 (0 : Byte)).length
      ∧ 1 ≤ 8 * (List.replicate 64 (0 : Byte)).length ∧ State.reset.params.parityMode = .received := by decide

/-- "HI": a control bit, the parity bit (5) and a padding bit of its one FCS byte. -/
theorem witness_SingleFcsErrorIsNotRepaired :
    1 ≤ ([0x48, 0x49] : Bytes).length ∧ ([0x48, 0x49] : Bytes).length ≤ 64
      ∧ (∀ x ∈ [0, 4, 5, 7], x < 8 * (fecEncode [0x48, 0x49]).length)
      ∧ kOf ([0x48, 0x49] : Bytes).length = 5 ∧ State.reset.params.parityMode = .received := by
  have h : Nat.clog 2 17 = 5 := by decide +kernel
  exact ⟨by decide, by decide, by decide +kernel, h, rfl⟩

theorem witness_DoubleDataErrorDetected :
    (List.replicate 64 (0 : Byte)).length ≤ 64 ∧ 1 ≤ 511 ∧ 511 < 512 ∧ 512 ≤ 8 * (List.replicate 64 (0 : Byte)).length
      ∧ State.reset.params.parityMode = .received := by decide

theorem witness_DataAndControlPairUndetected :
    1 ≤ ([0x48, 0x49] : Bytes).length ∧ ([0x48, 0x49] : Bytes).length ≤ 64 ∧ 4 < kOf ([0x48, 0x49] : Bytes).length := by
  have h : Nat.clog 2 17 = 5 := by decide +kernel
  exact ⟨by decide, by decide, by rw [show kOf ([0x48, 0x49] : Bytes).length = 5 from h]; decide⟩

/-- Positions 3 (an even number of ones) and 512 (an odd one). -/
theorem witness_RecomputedModeSingleDataError :
    (List.replicate 64 (0 : Byte)).length ≤ 64 ∧ 512 ≤ 8 * (List.replicate 64 (0 : Byte)).length
      ∧ ((List.range 10).countP fun i => (3 : Nat).testBit i) % 2 = 0
      ∧ ((List.range 10).countP fun i => (512 : Nat).testBit i) % 2 ≠ 0
      ∧ recomputed.params.parityMode = .recomputed := by decide

theorem witness_SerializeConcatenatesFields :
    ([] : Bytes).length ≤ 64 ∧ (List.replicate 64 (0 : Byte)).length ≤ 64
      ∧ 1 ≤ ([0] : Bytes).length ∧ ([0, 0] : Bytes).length ≤ 2 := by decide

/-- The four ends of the two cases. -/
theorem witness_DeserializeSplitsByLength :
    (([0] : Bytes).length = 1 ∧ ([] : Bytes).length ≤ 15)
      ∧ (([0] : Bytes).length = 1 ∧ (List.replicate 15 (0 : Byte)).length ≤ 15)
      ∧ (([0, 0] : Bytes).length = 2 ∧ 15 ≤ (List.replicate 15 (0 : Byte)).length)
      ∧ (([0, 0] : Bytes).length = 2 ∧ (List.replicate 64 (0 : Byte)).length ≤ 64) := by decide

/-- 4 bytes; 5 bytes with a wrong flag; 71 bytes with both flags. -/
theorem witness_DeserializeFailsInOrder :
    ([0x0B, 1, 1, 0x0C] : Bytes).length < 5
      ∧ (5 ≤ ([0x0B, 1, 1, 0, 0x0D] : Bytes).length ∧ ([0x0B, 1, 1, 0, 0x0D] : Bytes)[4]? ≠ some 0x0C)
      ∧ (70 < (0x0B :: (List.replicate 69 (0 : Byte) ++ [0x0C])).length
        ∧ (0x0B :: (List.replicate 69 (0 : Byte) ++ [0x0C]))[0]? = some 0x0B
        ∧ (0x0B :: (List.replicate 69 (0 : Byte) ++ [0x0C]))[70]? = some 0x0C) := by decide

theorem witness_FrameRoundTrip : (List.replicate 64 (0 : Byte)).length ≤ 64 := by decide

theorem witness_CheckTestsLengthAndFlags : hi.length ≤ 65535 := by decide

theorem witness_StuffEscapesInterior : ([0x0B] : Bytes).length < 2 ∧ (List.replicate 68 (0x0B : Byte)).length ≤ 68
    ∧ 70 < (List.replicate 71 (0 : Byte)).length := by decide

theorem witness_UnstuffInvertsStuff : (List.replicate 70 (0x7D : Byte)).length ≤ 70 := by decide

/-- Both outcomes: pairs followed by further bytes, and the unpaired escape behind a pair (`7D 7D 7D`). -/
theorem witness_UnstuffPairsAndDanglingEscape :
    ([0x7D, 0x00, 0x41, 0x7D, 0x0C, 0x7E] : Bytes).length + 2 ≤ 65535
      ∧ Unescapes [0x7D, 0x00, 0x41, 0x7D, 0x0C, 0x7E] (some [0x50, 0x41, 0x5C, 0x7E])
      ∧ Unescapes [0x7D, 0x7D, 0x7D] none ∧ ([0x0B] : Bytes).length < 2 :=
  ⟨by decide, .pair (.plain (by decide) (.pair (.plain (by decide) .done))), .pair .unpaired, by decide⟩

theorem witness_SegmentCutsMessage :
    ([] : Bytes).length ≤ 16320 ∧ (List.replicate 16320 (0 : Byte)).length ≤ 16320
      ∧ 16320 < (List.replicate 16321 (0 : Byte)).length := by
  simp only [List.length_replicate]; decide

/-- A buffer with a frame, and one with none. -/
theorem witness_FindReturnsFirstFrame :
    hi.length ≤ 65535 ∧ rxFind hi = (0, 7) ∧ rxFind (hi.take 6) = (0, 0) := by decide

/-- A chunk that is one jam run; two runs and a rest of one byte between other bytes. -/
theorem witness_JamRunsAreStripped :
    ((∀ x ∈ ([1, 2] : Bytes), x ≠ 0xFF) ∧ ([3, 0xFF] : Bytes).head? ≠ some 0xFF)
      ∧ (List.replicate 4 (0xFF : Byte)).length ≤ 65535
      ∧ stripJam ([1, 2] ++ List.replicate 9 0xFF ++ [3, 0xFF]) = ([1, 2, 0xFF, 3, 0xFF], 2) := by decide

theorem witness_DeliverWritesOnlyTheBuffer : (List.replicate 65535 (0 : Byte)).length ≤ 65535 := by
  simp only [List.length_replicate]; decide

/-- A buffer of 138 bytes at a capacity of 138: one byte too many; behind a jam run, a start flag with a chunk too long
and one that fits exactly; nothing more; and the capacity infinity. -/
theorem witness_DeliverOverflow :
    ∃ s : State, s.params.rxbufCap = some 138 ∧ s.rxb.length = 138
      ∧ (stripJam [1] = ([1], 0) ∧ 138 < s.rxb.length + ([1] : Bytes).length)
      ∧ (stripJam ([0xFF, 0xFF, 0xFF, 0xFF, 0x0B] ++ List.replicate 138 0) = (0x0B :: List.replicate 138 0, 1)
        ∧ s.rxb ≠ [] ∧ 138 < (0x0B :: List.replicate 138 (0 : Byte)).length)
      ∧ (stripJam (0x0B :: List.replicate 137 0) = (0x0B :: List.replicate 137 0, 0)
        ∧ (0x0B :: List.replicate 137 (0 : Byte)).length ≤ 138)
      ∧ (stripJam [] = ([], 0) ∧ s.rxb.length + ([] : Bytes).length ≤ 138)
      ∧ State.params { s with params := ⟨none, .received⟩ } = ⟨none, .received⟩ :=
  ⟨{ State.reset with rxb := List.replicate 138 0, params := ⟨some 138, .received⟩ }, rfl, by decide +kernel,
    by decide +kernel, by decide +kernel, by decide +kernel, by decide +kernel, rfl⟩

/-- A jam run and a frame behind it, on a partial frame and on the empty buffer. -/
theorem witness_ResyncDiscardsStaleBuffer :
    ∃ s : State, ([0xFF, 0xFF, 0xFF, 0xFF] ++ hi).length ≤ 65535
      ∧ stripJam ([0xFF, 0xFF, 0xFF, 0xFF] ++ hi) = (hi, 1) ∧ hi.head? = some 0x0B ∧ s.rxb ≠ []
      ∧ (∀ cap, s.params.rxbufCap = some cap → hi.length ≤ cap)
      ∧ State.rxb { s with rxb := [] } = [] ∧ stripJam [1] = ([1], 0) ∧ ([1] : Bytes).head? ≠ some 0x0B
      ∧ ∀ cap, s.params.rxbufCap = some cap → s.rxb.length + ([1] : Bytes).length ≤ cap :=
  ⟨{ State.reset with rxb := [0x0B, 1] }, by decide, by decide, rfl, by decide, fun cap h => by cases h; decide, rfl,
    by decide, by decide, fun cap h => by cases h; decide⟩

/-- The condition of R188 on a word, as a check that can be evaluated. -/
theorem transparent_of {w : Bytes} (h : ∀ e < w.length, 4 ≤ e → e + 2 ≤ w.length → w[e]? ≠ some 0x0C)
    (j : ∀ j < w.length, (w.drop j).take 4 ≠ [0xFF, 0xFF, 0xFF, 0xFF]) : Transparent w where
  noEarlyEnd e h1 h2 := h e (by omega) h1 h2
  noJam i := by
    by_cases hi : i < w.length
    · exact j i hi
    · simp [List.drop_eq_nil_of_le (Nat.le_of_not_lt hi)]

theorem wire_hi : wireFrame (buildFrame 1 1 [0x48, 0x49]) = hi := by decide +kernel

theorem transparent_hi : Transparent hi := transparent_of (by decide) (by decide)

/-- The frame `hi`, and one that is too short once unstuffed, as first frames of a buffer; a buffer with none. -/
theorem first_frames :
    IsFirstFrame hi 0 7 ∧ IsFirstFrame [0x0B, 0x7D, 0x5B, 0x7D, 0x5B, 0x0C] 0 6 ∧ ∀ a b, ¬ IsFirstFrame [0x0B, 1] a b := by
  refine ⟨⟨rfl, ?_, by decide, by decide, rfl, ?_⟩, ⟨rfl, ?_, by decide, by decide, rfl, ?_⟩, fun a b h => ?_⟩
  · intro j k h1 h2 h3
    obtain rfl : k = 0 := by omega
    rfl
  · intro e h1 h2
    interval_cases e <;> decide
  · intro j k h1 h2 h3
    obtain rfl : k = 0 := by omega
    rfl
  · intro e h1 h2
    obtain rfl : e = 4 := by omega
    decide
  · have h1 := h.endFlag
    have h2 := h.longEnough
    rw [List.getElem?_eq_none (by simp only [List.length_cons, List.length_nil]; omega)] at h1
    cases h1

/-- First part: no frame, a dropped frame, a delivered one with the injector on, whose outcome is 1. -/
theorem witness_DeliverProcessesFrames_scan :
    stripJam [0x0B, 1] = ([0x0B, 1], 0) ∧ (∀ a b, ¬ IsFirstFrame [0x0B, 1] a b)
      ∧ (IsFirstFrame [0x0B, 0x7D, 0x5B, 0x7D, 0x5B, 0x0C] 0 6
        ∧ unstuff [0x0B, 0x7D, 0x5B, 0x7D, 0x5B, 0x0C] = .ok [0x0B, 0x0B, 0x0B, 0x0C]
        ∧ deserialize [0x0B, 0x0B, 0x0B, 0x0C] = .error .errFrameShort)
      ∧ (stripJam hi = (hi, 0) ∧ IsFirstFrame hi 0 7 ∧ unstuff hi = .ok hi
        ∧ deserialize hi = .ok ⟨1, 1, [0x48, 0x49], [0x08]⟩
        ∧ (inject [0x48, 0x49] { sending .idle 0 0 0 with draws := [0, 0, 0] }).payload = [0x49, 0x49]
        ∧ (fecCorrect .received [0x49, 0x49] [0x08]).outcome = .corrected)
      ∧ ∀ cap, State.reset.params.rxbufCap = some cap → hi.length ≤ cap :=
  ⟨by decide, first_frames.2.2, ⟨first_frames.2.1, by decide, by decide⟩,
    ⟨by decide, first_frames.1, by decide, by decide, by decide, by decide +kernel⟩, fun cap h => by cases h; decide⟩

/-- Second part: "HI" with the injector off, the empty payload, whose frame is `0B 01 01 00 0C`, with it on, and "HI"
with one bit flipped. -/
theorem witness_DeliverProcessesFrames :
    ([0x48, 0x49] : Bytes).length ≤ 64 ∧ State.reset.rxb = [] ∧ State.reset.emuEn = false
      ∧ State.reset.params.legal = true ∧ Transparent (wireFrame (buildFrame 1 1 [0x48, 0x49]))
      ∧ Transparent (wireFrame (buildFrame 1 1 []))
      ∧ ∃ s : State, s.rxb = [] ∧ s.params.legal = true ∧ s.emuEn = true ∧ s.params.parityMode = .received
        ∧ 1 < ([0x48, 0x49] : Bytes).length ∧ 7 < 8 ∧ s.draws = 0 :: 1 :: 7 :: [] := by
  refine ⟨by decide, rfl, rfl, by decide, wire_hi ▸ transparent_hi, ?_,
    ⟨{ sending .idle 0 0 0 with draws := [0, 1, 7] }, rfl, by decide, rfl, rfl, by decide, by decide, rfl⟩⟩
  rw [show wireFrame (buildFrame 1 1 []) = [0x0B, 1, 1, 0, 0x0C] by decide +kernel]
  exact transparent_of (by decide) (by decide)

/-- A message of two frames: 64 bytes `0x20` and one. -/
theorem witness_MessageReassembles :
    (List.replicate 65 (0x20 : Byte)).length ≤ 16320 ∧ State.reset.rxb = [] ∧ State.reset.emuEn = false
      ∧ State.reset.params.legal = true ∧ (segment (List.replicate 65 0x20)).length = 2
      ∧ ∀ f ∈ segment (List.replicate 65 0x20), Transparent (wireFrame f) := by
  refine ⟨by decide, rfl, rfl, by decide, by decide +kernel, fun f hf => transparent_of ?_ ?_⟩
  · exact (show ∀ f ∈ segment (List.replicate 65 0x20), ∀ e < (wireFrame f).length, 4 ≤ e → e + 2 ≤ (wireFrame f).length →
      (wireFrame f)[e]? ≠ some 0x0C by decide +kernel) f hf
  · exact (show ∀ f ∈ segment (List.replicate 65 0x20), ∀ j < (wireFrame f).length,
      ((wireFrame f).drop j).take 4 ≠ [0xFF, 0xFF, 0xFF, 0xFF] by decide +kernel) f hf

/-- The empty payload, and the longest. -/
theorem witness_InjectFlipsOneOrTwoBits :
    ([] : Bytes).length ≤ 64 ∧ (List.replicate 64 (0 : Byte)).length ≤ 64 ∧ List.replicate 64 (0 : Byte) ≠ [] := by decide

theorem witness_InjectFollowsItsDraws :
    ([0x48, 0x49] : Bytes).length ≤ 64 ∧ 1 < ([0x48, 0x49] : Bytes).length ∧ 7 < 8 ∧ 0 < ([0x48, 0x49] : Bytes).length
      ∧ 0 < 8 := by decide

theorem witness_SetEmuAndStatsReset : 1 < (2 : Byte).toNat := by decide

theorem witness_SendLatchesFrame :
    1 ≤ ([0x0B] : Bytes).length ∧ (List.replicate 138 (0 : Byte)).length ≤ 138
      ∧ (sending .idle 0 0 0).macState = .idle ∧ (sending .success 2 7 0).macState = .success
      ∧ (sending .giveUp 16 0 0).macState = .giveUp ∧ (sending .giveUp 16 0 0).emuEn = true := by
  decide +kernel

theorem witness_SendWhileBusyRefused :
    1 ≤ hi.length ∧ hi.length ≤ 138 ∧ (sending .sense 0 0 0).macState = .sense
      ∧ (sending .transmit 0 0 0).macState = .transmit ∧ (sending .collided 0 0 0).macState = .collided
      ∧ (sending .backoff 0 0 0).macState = .backoff := by decide

theorem witness_SendDirectWritesChannel :
    1 ≤ hi.length ∧ hi.length ≤ 138 ∧ State.reset.macState = .idle ∧ State.reset.emuEn = false := by decide

/-- The second part: the ends of the range for an attempt below the cap and one above it. -/
theorem witness_BackoffDelayBound :
    7 ≤ 2 ^ min (3 : Byte).toNat 10 - 1 ∧ 1023 ≤ 2 ^ min (200 : Byte).toNat 10 - 1 := by decide

/-- The three outcomes of the step: the last attempt, a busy medium, an idle one. -/
theorem witness_SenseStepFollowsR221 :
    (sending .sense 16 0 0).macState = .sense ∧ (sending .sense 16 0 0).attempt = 16
      ∧ State.drawValue { sending .sense 15 0 0 with draws := [1] } 1 = 1
      ∧ State.drawValue { sending .sense 0 0 0 with draws := [0] } 1 = 0 := by decide

/-- The first byte of the frame, and the last. -/
theorem witness_TransmitStepFollowsR222 :
    (sending .transmit 0 0 0).macState = .transmit ∧ hi[(0 : BitVec 8).toNat]? = some 0x0B
      ∧ hi[(6 : BitVec 8).toNat]? = some 0x0C ∧ (6 : BitVec 8).toNat + 1 = hi.length ∧ hi.length ≤ 138 := by decide

theorem witness_CollidedStepFollowsR224 :
    State.macState { sending .collided 0 0 0 with collisionCount := 0xFFFFFFFF } = .collided := by decide

theorem witness_TickAndExpiryFollowR225AndR227 :
    ((sending .backoff 1 0 1).macState = .backoff ∧ (sending .backoff 1 0 1).backoffCnt ≠ 0)
      ∧ ((sending .backoff 1 0 0).macState = .backoff ∧ (sending .backoff 1 0 0).backoffCnt = 0)
      ∧ (sending .success 1 7 0).macState = .success := by decide

theorem witness_FrameInFlightIgnoresEmuFlag :
    (∃ t, runTurn .sequencer (sending .backoff 1 0 0) = .next t)
      ∧ ∃ t, runTurn .tick (sending .backoff 1 0 1) = .next t := ⟨⟨_, rfl⟩, ⟨_, rfl⟩⟩

/-- One of the ten transitions, and reset. -/
theorem witness_OnlyTheTransitionsOfR210 :
    (∃ s t, step s = .next t ∧ s.macState = .backoff ∧ t.macState = .sense)
      ∧ ∃ s t, step s = .next t ∧ s.nextTurn = .reset ∧ t.macState ≠ s.macState :=
  ⟨⟨sending .backoff 1 0 0, _, rfl, rfl, rfl⟩, ⟨{ sending .backoff 1 0 0 with sched := [.reset] }, _, rfl, rfl, by decide⟩⟩

/-- Each clause: a delivery, the emulation flag, the fields that an accepted send writes, a counted collision with its
jam flag and countdown, the tick, the expiry, the index, and the cleared statistics. -/
theorem witness_FieldsHaveTheirWriters :
    (∃ s t, step s = .next t ∧ s.nextTurn = .channel [1] ∧ t.rxb ≠ s.rxb)
      ∧ (∃ s t, step s = .next t ∧ s.nextTurn = .host [0x62, 1] ∧ t.emuEn ≠ s.emuEn)
      ∧ (∃ s t, step s = .next t ∧ s.nextTurn = .host ([0x60, 0, 1, 1]) ∧ t.txf ≠ s.txf ∧ t.macState ≠ s.macState
        ∧ t.attempt ≠ s.attempt ∧ t.txIdx ≠ s.txIdx ∧ t.jamFlag ≠ s.jamFlag)
      ∧ (∃ s t, step s = .next t ∧ s.nextTurn = .sequencer ∧ t.collisionCount ≠ s.collisionCount
        ∧ t.jamFlag ≠ s.jamFlag ∧ t.backoffCnt ≠ s.backoffCnt ∧ t.macState ≠ s.macState)
      ∧ (∃ s t, step s = .next t ∧ s.nextTurn = .tick ∧ t.backoffCnt ≠ s.backoffCnt)
      ∧ (∃ s t, step s = .next t ∧ s.nextTurn = .sequencer ∧ t.attempt ≠ s.attempt)
      ∧ (∃ s t, step s = .next t ∧ s.nextTurn = .sequencer ∧ t.txIdx ≠ s.txIdx)
      ∧ ∃ s t, step s = .next t ∧ s.nextTurn = .host [0x63] ∧ t.collisionCount ≠ s.collisionCount
        ∧ t.jamFlag ≠ s.jamFlag :=
  ⟨⟨{ State.reset with sched := [.channel [1]] }, _, rfl, rfl, by decide⟩,
    ⟨{ State.reset with sched := [.host [0x62, 1]] }, _, rfl, rfl, by decide⟩,
    ⟨{ sending .success 2 7 0 with sched := [.host [0x60, 0, 1, 1]], jamFlag := true }, _, rfl, rfl, by decide, by decide,
      by decide, by decide, by decide⟩,
    ⟨{ sending .collided 1 0 0 with sched := [.sequencer], draws := [1, 1] }, _, rfl, rfl, by decide, by decide, by decide,
      by decide⟩,
    ⟨sending .backoff 1 0 1, _, rfl, rfl, by decide⟩, ⟨sending .backoff 1 0 0, _, rfl, rfl, by decide⟩,
    ⟨{ sending .transmit 1 0 0 with draws := [0, 1] }, _, rfl, rfl, by decide⟩,
    ⟨{ State.reset with sched := [.host [0x63]], collisionCount := 5, jamFlag := true }, _, rfl, rfl, by decide, by decide⟩⟩

theorem witness_TracesOnlyGrow :
    ∃ s t, step s = .next t ∧ s.nextTurn = .sequencer ∧ t.txTrace = [0x0B] :=
  ⟨{ sending .transmit 0 0 0 with sched := [.sequencer], draws := [0, 1] }, _, rfl, rfl, rfl⟩

/-- A frame of one byte at the last attempt that can still transmit, and one of 138 bytes at the first. -/
theorem witness_UncontendedFrameGoesOut :
    ∃ s : State, s.macState = .sense ∧ s.attempt.toNat < 16 ∧ 1 ≤ s.txf.length ∧ s.txf.length ≤ 138 ∧ s.sched = []
      ∧ s.draws = 0 :: ((List.replicate s.txf.length [0, 1]).flatten ++ []) :=
  ⟨{ State.reset with macState := .sense, attempt := 15, txf := [0x0B], draws := [0, 0, 1] }, by decide, by decide,
    by decide, by decide, by decide, by decide⟩

theorem witness_BusyMediumGivesUp :
    ∃ s : State, s.macState = .sense ∧ s.attempt = 0 ∧ s.backoffCnt = 0 ∧ s.sched = []
      ∧ s.draws = (List.replicate 16 [1, 0]).flatten ++ [] :=
  ⟨{ sending .sense 0 0 0 with draws := (List.replicate 16 [1, 0]).flatten ++ [] }, rfl, rfl, rfl, rfl, rfl⟩

theorem witness_MacTerminates : ∃ s : State, Inv s ∧ s.sched = [] ∧ s.macState.busy = true := ⟨_, witness_Inv, rfl, rfl⟩

/-- The three parts: a run that comes to a send, a state that keeps the invariants with nothing scheduled, and a channel
that accepts one frame. -/
theorem witness_TxMessageWaitsForQuiet :
    (State.reset.macState = .idle ∧ (∀ p, Turn.host p ∉ State.reset.sched)
        ∧ ∃ h w rest, (txMessage [0x48, 0x49] State.reset).run (List.replicate 3 .procedure) = .next h
          ∧ h.todo = .issue (.macSend w) :: rest)
      ∧ (∃ s : State, ([0x48, 0x49] : Bytes).length ≤ 16320 ∧ Inv s ∧ s.sched = [] ∧ s.macState = .giveUp ∧ s.emuEn = true)
      ∧ ∃ s : State, s.macState = .idle ∧ s.emuEn = false ∧ (∀ p, Turn.host p ∉ s.sched)
        ∧ s.draws = List.replicate (segment [0x48, 0x49]).length 1 ++ []
        ∧ 1 + 4 * (segment [0x48, 0x49]).length
          ≤ List.count HostMove.procedure (List.replicate 5 [HostMove.other, HostMove.procedure]).flatten := by
  refine ⟨⟨rfl, fun p h => (nomatch h), _, _, _, rfl, rfl⟩,
    ⟨sending .giveUp 16 6 0, by decide, ?_, rfl, rfl, rfl⟩, ⟨{ State.reset with draws := [1] }, rfl, rfl, fun p h => (nomatch h), by decide +kernel, by decide +kernel⟩⟩
  exact ⟨by intro cap h; cases h; decide, by decide, by decide, by decide, by decide, by decide, by decide, by decide,
    by decide, by decide, by decide, by decide⟩

end Sys2Proof.Tests
end

