-- ==== Sys2Proof/Proofs/Scope.lean ====
section
/-! PROOFS. What HSB observes of itself and puts on the channel (spec/00_scope.md R14, R16): the traces only grow (O56),
the `TRANSMIT` step (O48), and the bypass write of `MAC.SEND` (O43). -/

namespace Sys2Proof.Machine

/-! ### The channel write, by the channel's answer -/

theorem State.chanWrite_of_ok {s : State} (h : s.chanOk = true) (b : Bytes) :
    s.chanWrite b = { s.afterDraw with txTrace := s.txTrace ++ b } := by
  simp only [State.chanWrite, h, if_true]

theorem State.chanWrite_of_failed {s : State} (h : s.chanOk = false) (b : Bytes) : s.chanWrite b = s.afterDraw := by
  rcases s.chanWrite_cases b with ⟨hok, -⟩ | ⟨-, hw⟩
  · exact absurd hok (by simp [h])
  · exact hw

/-! ### Growth of the traces -/

/-- `t` comes after `s` with no observation erased and no parameter written. -/
structure State.Grows (s t : State) : Prop where
  txTrace : s.txTrace <+: t.txTrace
  evTrace : s.evTrace <+: t.evTrace
  params : t.params = s.params

namespace State.Grows

theorem refl (s : State) : s.Grows s := ⟨List.prefix_rfl, List.prefix_rfl, rfl⟩

theorem trans {s t u : State} (hst : s.Grows t) (htu : t.Grows u) : s.Grows u :=
  ⟨hst.txTrace.trans htu.txTrace, hst.evTrace.trans htu.evTrace, htu.params.trans hst.params⟩

/-- An update of any other fields grows nothing and erases nothing. -/
theorem of_eq {s t : State} (htx : t.txTrace = s.txTrace) (hev : t.evTrace = s.evTrace) (hp : t.params = s.params) :
    s.Grows t :=
  ⟨htx ▸ List.prefix_rfl, hev ▸ List.prefix_rfl, hp⟩

theorem emit {s t : State} (h : s.Grows t) (e : Event) : s.Grows (t.emit e) :=
  h.trans ⟨List.prefix_rfl, List.prefix_append _ _, rfl⟩

theorem chanWrite {s t : State} (h : s.Grows t) (b : Bytes) : s.Grows (t.chanWrite b) := by
  refine h.trans ?_
  rcases t.chanWrite_cases b with ⟨-, hw⟩ | ⟨-, hw⟩
  · rw [hw]; exact ⟨List.prefix_append _ _, List.prefix_rfl, rfl⟩
  · rw [hw]; exact of_eq rfl rfl rfl

end State.Grows

theorem senseStep_grows (s : State) : s.Grows (senseStep s) := by
  rcases senseStep_cases s with ⟨-, h⟩ | ⟨-, -, h⟩ | ⟨-, -, h⟩ <;> rw [h]
  case inl => refine .emit ?_ _; exact .of_eq rfl rfl rfl
  case inr.inl => refine .emit ?_ _; exact .of_eq rfl rfl rfl
  case inr.inr => exact .of_eq rfl rfl rfl

theorem byteWritten_grows (s : State) : s.Grows s.byteWritten := by
  rcases byteWritten_cases s with ⟨-, h⟩ | ⟨-, h⟩ <;> rw [h]
  case inl => refine .emit ?_ _; exact .of_eq rfl rfl rfl
  case inr => exact .of_eq rfl rfl rfl

theorem afterDraw_grows (s : State) : s.Grows s.afterDraw := .of_eq rfl rfl rfl

theorem collide_grows (s : State) (cause : CollisionCause) : s.Grows (s.collide cause) :=
  have hstate : s.Grows { s with macState := .collided } := .of_eq rfl rfl rfl
  hstate.emit _

theorem transmitStep_grows {s t : State} (h : transmitStep s = .next t) : s.Grows t := by
  rcases transmitStep_cases s with ⟨-, ht⟩ | ⟨-, -, ht⟩ | ⟨b, -, -, ⟨-, ht⟩ | ⟨-, ht⟩⟩ <;> rw [ht] at h <;> cases h
  case inl => exact (afterDraw_grows s).trans (collide_grows _ _)
  case inr.inr.inl => exact ((afterDraw_grows s).chanWrite _).trans (byteWritten_grows _)
  case inr.inr.inr => exact ((afterDraw_grows s).chanWrite _).trans (collide_grows _ _)

theorem collidedStep_grows (s : State) : s.Grows (collidedStep s) :=
  have hjam : s.Grows (s.chanWrite jamSignal) := (State.Grows.refl s).chanWrite jamSignal
  have hcount : (s.chanWrite jamSignal).Grows (s.chanWrite jamSignal).countCollision.setJam.enterBackoff :=
    .of_eq rfl rfl rfl
  (hjam.trans hcount).emit _

theorem sequencerStep_grows {s t : State} (h : sequencerStep s = .next t) : s.Grows t := by
  rcases sequencerStep_cases s with ⟨-, hs⟩ | ⟨-, hs⟩ | ⟨-, hs⟩ | ⟨-, -, hs⟩ | ⟨-, hs⟩ <;> rw [hs] at h
  case inl => cases h; exact senseStep_grows s
  case inr.inl => exact transmitStep_grows h
  case inr.inr.inl => cases h; exact collidedStep_grows s
  case inr.inr.inr.inl => cases h; exact .of_eq rfl rfl rfl
  case inr.inr.inr.inr => cases h; exact .refl s

theorem slotTick_grows (s : State) : s.Grows (slotTick s) := by
  rcases slotTick_cases s with ⟨-, -, h⟩ | ⟨-, h⟩ <;> rw [h]
  case inl => exact .of_eq rfl rfl rfl
  case inr => exact .refl s

theorem deliver_grows (chunk : Bytes) (s : State) : s.Grows (deliver chunk s) := by
  obtain ⟨events, h⟩ := deliver_frame chunk s
  rw [h]
  exact ⟨List.prefix_rfl, List.prefix_append _ _, rfl⟩

theorem inject_grows (p : Bytes) (s : State) : s.Grows (inject p s).state := by
  rw [inject_state]
  exact .of_eq rfl rfl rfl

theorem sendDirect_grows (s : State) (w : Bytes) : s.Grows (s.sendDirect w) := .emit (.chanWrite (.refl s) w) _

theorem exec_grows {i : Instr} {s t : State} (h : exec i s = .next t) : s.Grows t := by
  rcases exec_cases i s with ⟨r, he⟩ | ⟨c, -, -, he⟩ | ⟨p, r, -, he⟩ | ⟨w, -, -, -, -, -, he⟩ | ⟨w, e, -, -, -, -, he⟩
    | ⟨a, -, he⟩ | ⟨-, he⟩ | ⟨a, r, -, he⟩ <;> rw [he] at h <;> cases h
  case inr.inl => exact deliver_grows c s
  case inr.inr.inl => exact (inject_grows p s).trans (.of_eq rfl rfl rfl)
  case inr.inr.inr.inr.inl => exact (sendDirect_grows s w).trans (.of_eq rfl rfl rfl)
  all_goals exact .of_eq rfl rfl rfl

theorem runTurn_grows {turn : Turn} {s t : State} (h : runTurn turn s = .next t) : s.Grows t := by
  rcases runTurn_cases turn s with ⟨e, hr⟩ | ⟨p, i, -, -, hr⟩ | ⟨c, -, -, hr⟩ | ⟨-, hr⟩ | ⟨-, hr⟩ | ⟨-, hr⟩ <;>
    rw [hr] at h
  case inl => cases h; exact .of_eq rfl rfl rfl
  case inr.inl => exact exec_grows h
  case inr.inr.inl => cases h; exact deliver_grows c s
  case inr.inr.inr.inl => exact sequencerStep_grows h
  case inr.inr.inr.inr.inl => cases h; exact slotTick_grows s
  case inr.inr.inr.inr.inr => cases h; exact .of_eq rfl rfl rfl

theorem step_grows {s t : State} (h : step s = .next t) : s.Grows t :=
  .trans (.of_eq rfl rfl rfl : s.Grows s.afterTurn) (runTurn_grows h)

/-- Settles O56: every agent's turn is one of the shared operations, each of which only appends (`step_grows`). -/
theorem tracesOnlyGrow : Obligations.TracesOnlyGrow := by
  intro s t h
  obtain ⟨htx, hev, hp⟩ := step_grows h
  exact ⟨htx, hev, hp⟩

/-! ### The `TRANSMIT` step -/

/-- Inside a frame of at most 138 bytes the index does not wrap. -/
theorem txIdx_succ_toNat {s : State} {b : Byte} (hb : s.txf[s.txIdx.toNat]? = some b) (hl : s.txf.length ≤ 138) :
    (s.txIdx + 1).toNat = s.txIdx.toNat + 1 := by
  obtain ⟨hlt, -⟩ := List.getElem?_eq_some_iff.1 hb
  have hone : (1 : BitVec 8).toNat = 1 := rfl
  rw [BitVec.toNat_add, hone]
  omega

/-- R222 inside the frame, in terms of the draws: the collision trial, then the write of the byte. -/
theorem transmitStep_of_byte {s : State} {b : Byte} (hb : s.txf[s.txIdx.toNat]? = some b) :
    transmitStep s = .next
      (if s.drawValue 1 = 1 then s.afterDraw.collide .trial
      else if s.afterDraw.drawValue 1 = 0 then s.afterDraw.afterDraw.collide .write
      else State.byteWritten { s.afterDraw.afterDraw with txTrace := s.txTrace ++ [b] }) := by
  rcases transmitStep_cases s with ⟨hd, h⟩ | ⟨-, hout, -⟩ | ⟨c, hd, hc, hw⟩
  · rw [h, if_pos (State.drawBit_eq_true.1 hd)]
  · rw [List.getElem?_eq_none hout] at hb
    cases hb
  · obtain rfl : b = c := Option.some.inj (hb.symm.trans hc)
    have hquiet : ¬ s.drawValue 1 = 1 := by rw [State.drawBit_eq_false.1 hd]; decide
    rw [if_neg hquiet]
    rcases hw with ⟨hok, h⟩ | ⟨hok, h⟩
    · have hwritten : ¬ s.afterDraw.drawValue 1 = 0 := by rw [State.drawBit_eq_true.1 hok]; decide
      rw [h, if_neg hwritten, State.chanWrite_of_ok hok]
      rfl
    · rw [h, if_pos (State.drawBit_eq_false.1 hok), State.chanWrite_of_failed hok]

/-- Settles O48: `transmitStep_of_byte` after the scheduled turn, the end of the frame read off the index without
wrapping. -/
theorem transmitStepFollowsR222 : Obligations.TransmitStepFollowsR222 := by
  intro s rest b hm hb hl
  have hstep : step { s with sched := .sequencer :: rest } = transmitStep { s with sched := rest } :=
    sequencerStep_transmit hm
  rw [hstep, transmitStep_of_byte (s := { s with sched := rest }) hb]
  congr 1
  refine ite_congr rfl (fun _ => rfl) fun _ => ite_congr rfl (fun _ => rfl) fun _ => ?_
  rw [← txIdx_succ_toNat hb hl]
  rfl

/-! ### `MAC.SEND` in bypass mode -/

theorem MacState.busy_eq_false_iff {m : MacState} : m.busy = false ↔ m = .idle ∨ m = .success ∨ m = .giveUp := by
  cases m <;> simp [MacState.busy]

/-- R216: the one write of a send in bypass mode, by the channel's answer. -/
theorem exec_macSend_bypass {w : Bytes} {s : State} (hr : stuffedInRange w = true) (hb : s.macState.busy = false)
    (he : s.emuEn = false) :
    exec (.macSend w) s = .next
      (if s.chanOk then (s.sendDirect w).answer [] else (s.sendDirect w).raise .errWrite) := by
  simp only [exec, execMacSend, hr, hb, he, State.guarded_true, Bool.false_eq_true, if_false]
  cases s.chanOk <;> rfl

/-- Settles O43: the quiet, bypassing send of `exec_macSend_bypass`, split on the channel's answer. -/
theorem sendDirectWritesChannel : Obligations.SendDirectWritesChannel := by
  intro w s h1 h2 hq he
  rw [exec_macSend_bypass (stuffedInRange_iff.2 ⟨h1, h2⟩) (MacState.busy_eq_false_iff.2 hq) he]
  cases hok : s.chanOk with
  | true =>
    rw [if_pos rfl, if_pos (State.drawBit_eq_true.1 hok), State.sendDirect, State.chanWrite_of_ok hok, hok]
    rfl
  | false =>
    have hfailed : ¬ s.drawValue 1 = 1 := by rw [State.drawBit_eq_false.1 hok]; decide
    rw [if_neg Bool.false_ne_true, if_neg hfailed, State.sendDirect, State.chanWrite_of_failed hok, hok]
    rfl

end Sys2Proof.Machine
end

section
/-! PROOFS. The state of HSB (spec/10_state.md): reset (O1, O52), the invariants of R36 under every transition (O53) and
their use against the one fault (O12), the frame of `RX.DELIVER` (O34), the `COLLIDED` step (O49), and the writers of
each field (O55). -/

namespace Sys2Proof.Machine

/-! ### Reset -/

/-- Settles O1: the reset state field by field, and the step of a scheduled reset turn, by definition. -/
theorem resetWritesNineFields : Obligations.ResetWritesNineFields := by
  refine ⟨⟨?rxb, ?macState, ?attempt, ?txIdx, ?backoffCnt, ?txf, ?emuEn, ?jamFlag, ?collisionCount, ?txTrace, ?evTrace⟩,
    fun s rest => ?turn⟩
  case turn => exact step_scheduled s .reset rest
  all_goals rfl

/-! ### The buffer after a delivery -/

theorem overflows_eq_false_iff {p : Params} {n : Nat} :
    overflows p n = false ↔ ∀ cap, p.rxbufCap = some cap → n ≤ cap := by
  unfold overflows
  cases p.rxbufCap <;> simp

/-- What R36 (1) and (7) say of the receive buffer. -/
structure BufferFits (p : Params) (buf : Bytes) : Prop where
  fits : ∀ cap, p.rxbufCap = some cap → buf.length ≤ cap
  noFrame : (rxFind buf).2 = 0

theorem bufferFits_nil (p : Params) : BufferFits p [] := ⟨fun _ _ => Nat.zero_le _, rfl⟩

/-- A delivery leaves the buffer empty, or the tail that the scan ends with of bytes that passed the overflow test. -/
theorem deliver_bufferFits (chunk : Bytes) (s : State) : BufferFits s.params (deliver chunk s).rxb := by
  rcases deliver_cases chunk s with ⟨-, h⟩ | ⟨hfit, scan, hscan, h⟩ <;> rw [h]
  case inl => exact bufferFits_nil _
  case inr =>
    subst hscan
    refine ⟨fun cap hcap => ?_, Scan.run_done le_rfl⟩
    exact (Scan.run_suffix _ _).length_le.trans (overflows_eq_false_iff.1 hfit cap hcap)

theorem exec_rxDeliver {chunk : Bytes} (hc : chunk.length ≤ 65535) (s : State) :
    exec (.rxDeliver chunk) s = .next (deliver chunk s) := by
  simp only [exec, execRxDeliver, anyLen16_iff.2 hc, State.guarded_true]

/-- Settles O34: the frame of a delivery (`deliver_frame`), its response, and the end of its scan. -/
theorem deliverWritesOnlyTheBuffer : Obligations.DeliverWritesOnlyTheBuffer := by
  intro chunk s hc
  obtain ⟨events, hframe⟩ := deliver_frame chunk s
  refine ⟨deliver chunk s, events, exec_rxDeliver hc s, hframe, ?_, (deliver_bufferFits chunk s).noFrame⟩
  rcases deliver_response chunk s with ⟨results, hok⟩ | ⟨herr, -⟩
  · exact .inl (by rw [hok]; rfl)
  · exact .inr herr

/-! ### The invariants, phase by phase -/

/-- What R36 (3) to (6), R223 and R226 say in each state of the MAC, of the attempt `a`, the index `i`, the countdown `c`
and the length `n` of the latched frame. -/
def PhaseFits (a i c n : Nat) : MacState → Prop
  | .idle => a < 16 ∧ c = 0
  | .sense => c = 0 ∧ 1 ≤ n
  | .transmit => a < 16 ∧ c = 0 ∧ i < n
  | .success => a < 16 ∧ c = 0 ∧ 1 ≤ n ∧ i = n
  | .collided => a < 16 ∧ c = 0 ∧ 1 ≤ n
  | .backoff => a < 16 ∧ c ≤ 2 ^ min a 10 - 1 ∧ 1 ≤ n
  | .giveUp => a = 16 ∧ c = 0 ∧ 1 ≤ n

/-- The bounds that hold in every state of the MAC, and those of its own phase. -/
structure MacFits (m : MacState) (a i c n : Nat) : Prop where
  attempt_le : a ≤ 16
  index_le : i ≤ n
  length_le : n ≤ 138
  phase : PhaseFits a i c n m

/-- The phases are the conditional items of R36, R223 and R226. -/
theorem phaseFits_iff {m : MacState} {a i c n : Nat} (ha : a ≤ 16) :
    PhaseFits a i c n m ↔
      (a = 16 → m = .sense ∨ m = .giveUp) ∧ (m = .transmit → i < n) ∧ (m = .backoff → c ≤ 2 ^ min a 10 - 1)
        ∧ (m ≠ .backoff → c = 0) ∧ (m ≠ .idle → 1 ≤ n) ∧ (m = .success → i = n) ∧ (m = .giveUp → a = 16) := by
  cases m <;> simp [PhaseFits] <;> omega

/-- The invariants are those of the buffer and those of the MAC; no other field enters them. -/
theorem inv_iff {s : State} :
    Inv s ↔ BufferFits s.params s.rxb
      ∧ MacFits s.macState s.attempt.toNat s.txIdx.toNat s.backoffCnt.toNat s.txf.length := by
  have hzero : s.backoffCnt = 0 ↔ s.backoffCnt.toNat = 0 := BitVec.toNat_eq
  constructor
  · intro h
    have hphase := (phaseFits_iff h.attemptBound).2 ⟨h.attemptLast, h.txIdxTransmit, h.backoffBound,
      fun hm => hzero.1 (h.backoffZero hm), h.txfLatched, h.successWhole, h.giveUpLast⟩
    exact ⟨⟨h.rxbFits, h.rxbPartial⟩, h.attemptBound, h.txIdxBound, h.txfBound, hphase⟩
  · rintro ⟨⟨hfits, hpartial⟩, ha, hi, hn, hphase⟩
    obtain ⟨hlast, htransmit, hbound, hnone, hlatched, hwhole, hgiveUp⟩ := (phaseFits_iff ha).1 hphase
    exact ⟨hfits, ha, hlast, hi, hn, htransmit, hbound, fun hm => hzero.2 (hnone hm), hlatched, hpartial,
      hwhole, hgiveUp⟩

/-! ### The `COLLIDED` step -/

/-- R224, with the two draws of the step in the order of its pseudocode. -/
theorem collidedStep_eq (s : State) :
    collidedStep s =
      { s.afterDraw.afterDraw with
        macState := .backoff, collisionCount := s.collisionCount + 1, jamFlag := true
        backoffCnt := BitVec.ofNat 10 (s.afterDraw.drawValue (bmax s.attempt.toNat))
        txTrace := if s.drawValue 1 = 1 then s.txTrace ++ [0xFF, 0xFF, 0xFF, 0xFF] else s.txTrace
        evTrace := s.evTrace ++ [.jamSent (decide (s.drawValue 1 = 1))] } := by
  unfold collidedStep
  cases hok : s.chanOk with
  | true =>
    have hone : s.drawValue 1 = 1 := State.drawBit_eq_true.1 hok
    rw [State.chanWrite_of_ok hok, if_pos hone, decide_eq_true hone]
    rfl
  | false =>
    have hnone : ¬ s.drawValue 1 = 1 := by rw [State.drawBit_eq_false.1 hok]; decide
    rw [State.chanWrite_of_failed hok, if_neg hnone, decide_eq_false hnone]
    rfl

/-- Settles O49: `collidedStep_eq` after the scheduled turn; adding 1 in 32 bits is adding modulo `2 ^ 32`. -/
theorem collidedStepFollowsR224 : Obligations.CollidedStepFollowsR224 := by
  intro s rest hm
  have hstep : step { s with sched := .sequencer :: rest } = .next (collidedStep { s with sched := rest }) :=
    sequencerStep_collided hm
  refine ⟨s.collisionCount + 1, ?_, BitVec.toNat_add _ _⟩
  rw [hstep, collidedStep_eq]
  rfl

/-! ### The moves of the MAC keep the phases -/

/-- Below its last value the attempt does not wrap. -/
theorem attempt_succ_toNat {s : State} (ha : s.attempt.toNat < 16) :
    (s.attempt + 1).toNat = s.attempt.toNat + 1 := by
  have hone : (1 : BitVec 5).toNat = 1 := rfl
  rw [BitVec.toNat_add, hone]
  omega

/-- The countdown that is loaded is in the range of its draw (R218). -/
theorem backoff_toNat_le (s : State) (a : Nat) : (BitVec.ofNat 10 (s.drawValue (bmax a))).toNat ≤ bmax a :=
  (backoff_toNat s a).trans_le (s.drawValue_le _)

/-- Above 0 the countdown does not wrap. -/
theorem backoffCnt_pred_toNat {s : State} (hc : s.backoffCnt ≠ 0) :
    (s.backoffCnt - 1).toNat = s.backoffCnt.toNat - 1 := by
  have hpos : 1 ≤ s.backoffCnt.toNat := Nat.pos_of_ne_zero (BitVec.toNat_eq.not.1 hc)
  exact BitVec.toNat_sub_of_le hpos

namespace MacFits

variable {m : MacState} {a i c n : Nat}

/-- R211. -/
theorem latched (h1 : 1 ≤ n) (h2 : n ≤ 138) : MacFits .sense 0 0 0 n := ⟨by omega, by omega, h2, rfl, h1⟩

/-- R280. -/
theorem reset : MacFits .idle 0 0 0 0 := ⟨by omega, by omega, by omega, by decide, rfl⟩

/-- R221, R226. -/
theorem gaveUp (h : MacFits .sense a i c n) (ha : a = 16) : MacFits .giveUp a i c n := by
  obtain ⟨hle, hi, hn, hc, h1⟩ := h
  exact ⟨hle, hi, hn, ha, hc, h1⟩

/-- R221. -/
theorem transmits (h : MacFits .sense a i c n) (ha : a ≠ 16) : MacFits .transmit a 0 c n := by
  obtain ⟨hle, -, hn, hc, h1⟩ := h
  exact ⟨hle, by omega, hn, by omega, hc, h1⟩

/-- R221: a delay in `0 .. bmax(attempt)` is loaded. -/
theorem busyBackoff {d : Nat} (h : MacFits .sense a i c n) (ha : a ≠ 16) (hd : d ≤ bmax a) :
    MacFits .backoff a i d n := by
  obtain ⟨hle, hi, hn, -, h1⟩ := h
  exact ⟨hle, hi, hn, by omega, hd, h1⟩

/-- R222. -/
theorem collides (h : MacFits .transmit a i c n) : MacFits .collided a i c n := by
  obtain ⟨hle, hi, hn, ha, hc, hin⟩ := h
  exact ⟨hle, hi, hn, ha, hc, by omega⟩

/-- R222: a byte before the last is written. -/
theorem advances {j : Nat} (h : MacFits .transmit a i c n) (hj : j = i + 1) (hne : j ≠ n) :
    MacFits .transmit a j c n := by
  obtain ⟨hle, hi, hn, ha, hc, hin⟩ := h
  exact ⟨hle, by omega, hn, ha, hc, by omega⟩

/-- R223: the last byte is written. -/
theorem succeeds {j : Nat} (h : MacFits .transmit a i c n) (hj : j = i + 1) (hlast : j = n) :
    MacFits .success a j c n := by
  obtain ⟨hle, hi, hn, ha, hc, hin⟩ := h
  exact ⟨hle, by omega, hn, ha, hc, by omega, hlast⟩

/-- R224: as for a busy medium, from `COLLIDED`. -/
theorem collidedBackoff {d : Nat} (h : MacFits .collided a i c n) (hd : d ≤ bmax a) : MacFits .backoff a i d n := by
  obtain ⟨hle, hi, hn, ha, -, h1⟩ := h
  exact ⟨hle, hi, hn, ha, hd, h1⟩

theorem attempt_lt (h : MacFits .backoff a i c n) : a < 16 := h.phase.1

/-- R225. -/
theorem expires {b : Nat} (h : MacFits .backoff a i c n) (hc : c = 0) (hb : b = a + 1) : MacFits .sense b i c n := by
  obtain ⟨-, hi, hn, ha, -, h1⟩ := h
  exact ⟨by omega, hi, hn, hc, h1⟩

/-- R227. -/
theorem ticks {d : Nat} (h : MacFits .backoff a i c n) (hd : d = c - 1) : MacFits .backoff a i d n := by
  obtain ⟨hle, hi, hn, ha, hc, h1⟩ := h
  exact ⟨hle, hi, hn, ha, by omega, h1⟩

end MacFits

/-! ### Every transition keeps the invariants -/

namespace Inv

variable {s t : State}

theorem buffer (h : Inv s) : BufferFits s.params s.rxb := (inv_iff.1 h).1

/-- The part of the MAC, its state named. -/
theorem mac {m : MacState} (h : Inv s) (hm : s.macState = m) :
    MacFits m s.attempt.toNat s.txIdx.toNat s.backoffCnt.toNat s.txf.length := hm ▸ (inv_iff.1 h).2

/-- A draw is no part of the invariants. -/
theorem afterDraw (h : Inv s) : Inv s.afterDraw := inv_iff.2 ⟨h.buffer, h.mac rfl⟩

/-- Nor is what the channel makes of a write. -/
theorem chanWrite (h : Inv s) (b : Bytes) : Inv (s.chanWrite b) := inv_iff.2 ⟨h.buffer, h.mac rfl⟩

/-- Nor is the response. -/
theorem respond (h : Inv s) (r : Bytes) : Inv { s with response := r } := inv_iff.2 ⟨h.buffer, h.mac rfl⟩

/-- Nor is the schedule. -/
theorem afterTurn (h : Inv s) : Inv s.afterTurn := inv_iff.2 ⟨h.buffer, h.mac rfl⟩

theorem deliver (h : Inv s) (chunk : Bytes) : Inv (deliver chunk s) := by
  obtain ⟨events, hframe⟩ := deliver_frame chunk s
  rw [hframe]
  exact inv_iff.2 ⟨deliver_bufferFits chunk s, h.mac rfl⟩

theorem inject (h : Inv s) (p : Bytes) : Inv (inject p s).state := by
  rw [inject_state]
  exact inv_iff.2 ⟨h.buffer, h.mac rfl⟩

theorem latch (h : Inv s) {w : Bytes} (h1 : 1 ≤ w.length) (h2 : w.length ≤ 138) : Inv (s.latch w) :=
  inv_iff.2 ⟨h.buffer, .latched h1 h2⟩

theorem resetStep (s : State) : Inv s.resetStep := inv_iff.2 ⟨bufferFits_nil _, .reset⟩

theorem senseStep (h : Inv s) (hm : s.macState = .sense) : Inv (senseStep s) := by
  rcases senseStep_cases s with ⟨ha, hs⟩ | ⟨ha, -, hs⟩ | ⟨ha, -, hs⟩ <;> rw [hs] <;> refine inv_iff.2 ⟨h.buffer, ?_⟩
  case inl => exact (h.mac hm).gaveUp ha
  case inr.inl => exact (h.mac hm).busyBackoff ha (backoff_toNat_le s.afterDraw _)
  case inr.inr => exact (h.mac hm).transmits ha

theorem collide (h : Inv s) (hm : s.macState = .transmit) (cause : CollisionCause) : Inv (s.collide cause) :=
  inv_iff.2 ⟨h.buffer, (h.mac hm).collides⟩

theorem byteWritten (h : Inv s) (hm : s.macState = .transmit) : Inv s.byteWritten := by
  have hnext : (s.txIdx + 1).toNat = s.txIdx.toNat + 1 :=
    txIdx_succ_toNat (List.getElem?_eq_getElem (h.txIdxTransmit hm)) h.txfBound
  rcases byteWritten_cases s with ⟨hlast, hs⟩ | ⟨hne, hs⟩ <;> rw [hs] <;> refine inv_iff.2 ⟨h.buffer, ?_⟩
  case inl => exact (h.mac hm).succeeds hnext hlast
  case inr => exact hm ▸ (h.mac hm).advances hnext hne

theorem transmitStep (h : Inv s) (hm : s.macState = .transmit) (hs : transmitStep s = .next t) : Inv t := by
  rcases transmitStep_cases s with ⟨-, ht⟩ | ⟨-, -, ht⟩ | ⟨b, -, -, ⟨-, ht⟩ | ⟨-, ht⟩⟩ <;> rw [ht] at hs <;> cases hs
  case inl => exact h.afterDraw.collide hm _
  case inr.inr.inl => exact (h.afterDraw.chanWrite [b]).byteWritten hm
  case inr.inr.inr => exact (h.afterDraw.chanWrite [b]).collide hm _

theorem collidedStep (h : Inv s) (hm : s.macState = .collided) : Inv (collidedStep s) := by
  rw [collidedStep_eq]
  exact inv_iff.2 ⟨h.buffer, (h.mac hm).collidedBackoff (backoff_toNat_le s.afterDraw _)⟩

theorem expireStep (h : Inv s) (hm : s.macState = .backoff) (hc : s.backoffCnt = 0) : Inv (expireStep s) := by
  have hzero : s.backoffCnt.toNat = 0 := by rw [hc]; rfl
  exact inv_iff.2 ⟨h.buffer, (h.mac hm).expires hzero (attempt_succ_toNat (h.mac hm).attempt_lt)⟩

theorem sequencerStep (h : Inv s) (hs : sequencerStep s = .next t) : Inv t := by
  rcases sequencerStep_cases s with ⟨hm, hq⟩ | ⟨hm, hq⟩ | ⟨hm, hq⟩ | ⟨hm, hc, hq⟩ | ⟨-, hq⟩ <;> rw [hq] at hs
  case inl => cases hs; exact h.senseStep hm
  case inr.inl => exact h.transmitStep hm hs
  case inr.inr.inl => cases hs; exact h.collidedStep hm
  case inr.inr.inr.inl => cases hs; exact h.expireStep hm hc
  case inr.inr.inr.inr => cases hs; exact h

theorem slotTick (h : Inv s) : Inv (slotTick s) := by
  rcases slotTick_cases s with ⟨hm, hc, hs⟩ | ⟨-, hs⟩ <;> rw [hs]
  case inl => exact inv_iff.2 ⟨h.buffer, hm ▸ (h.mac hm).ticks (backoffCnt_pred_toNat hc)⟩
  case inr => exact h

theorem exec {i : Instr} (h : Inv s) (he : exec i s = .next t) : Inv t := by
  rcases exec_cases i s with ⟨r, hx⟩ | ⟨c, -, -, hx⟩ | ⟨p, r, -, hx⟩ | ⟨w, -, h1, h2, -, -, hx⟩ | ⟨w, e, -, -, -, -, hx⟩
    | ⟨a, -, hx⟩ | ⟨-, hx⟩ | ⟨a, r, -, hx⟩ <;> rw [hx] at he <;> cases he
  case inr.inl => exact h.deliver c
  case inr.inr.inl => exact (h.inject p).respond r
  case inr.inr.inr.inl => exact (h.latch h1 h2).respond _
  all_goals exact inv_iff.2 ⟨h.buffer, h.mac rfl⟩

theorem runTurn {turn : Turn} (h : Inv s) (hr : runTurn turn s = .next t) : Inv t := by
  rcases runTurn_cases turn s with ⟨e, hx⟩ | ⟨p, i, -, -, hx⟩ | ⟨c, -, -, hx⟩ | ⟨-, hx⟩ | ⟨-, hx⟩ | ⟨-, hx⟩ <;>
    rw [hx] at hr
  case inl => cases hr; exact h.respond _
  case inr.inl => exact h.exec hr
  case inr.inr.inl => cases hr; exact h.deliver c
  case inr.inr.inr.inl => exact h.sequencerStep hr
  case inr.inr.inr.inr.inl => cases hr; exact h.slotTick
  case inr.inr.inr.inr.inr => cases hr; exact .resetStep s

end Inv

/-- Settles O53: every agent's turn keeps the phases (`Inv.runTurn`), with the turn itself taken off the schedule. -/
theorem invKeptByEveryTransition : Obligations.InvKeptByEveryTransition := fun _ _ h hs => h.afterTurn.runTurn hs

/-- Settles O52: the reset state is what a reset turn makes of itself. -/
theorem invAtReset : Obligations.InvAtReset := Inv.resetStep State.reset

/-! ### No transition stops HSB -/

/-- Inside the frame the `TRANSMIT` step has its byte to write. -/
theorem transmitStep_answers {s : State} (hin : s.txIdx.toNat < s.txf.length) : ∃ t, transmitStep s = .next t :=
  ⟨_, transmitStep_of_byte (List.getElem?_eq_getElem hin)⟩

theorem sequencerStep_answers {s : State} (h : Inv s) : ∃ t, sequencerStep s = .next t := by
  rcases sequencerStep_cases s with ⟨-, hq⟩ | ⟨hm, hq⟩ | ⟨-, hq⟩ | ⟨-, -, hq⟩ | ⟨-, hq⟩
  case inr.inl => rw [hq]; exact transmitStep_answers (h.txIdxTransmit hm)
  all_goals exact ⟨_, hq⟩

theorem exec_answers (i : Instr) (s : State) : ∃ t, exec i s = .next t := by
  rcases exec_cases i s with ⟨r, hx⟩ | ⟨c, -, -, hx⟩ | ⟨p, r, -, hx⟩ | ⟨w, -, -, -, -, -, hx⟩ | ⟨w, e, -, -, -, -, hx⟩
    | ⟨a, -, hx⟩ | ⟨-, hx⟩ | ⟨a, r, -, hx⟩ <;> exact ⟨_, hx⟩

theorem runTurn_answers (turn : Turn) {s : State} (h : Inv s) : ∃ t, runTurn turn s = .next t := by
  rcases runTurn_cases turn s with ⟨e, hx⟩ | ⟨p, i, -, -, hx⟩ | ⟨c, -, -, hx⟩ | ⟨-, hx⟩ | ⟨-, hx⟩ | ⟨-, hx⟩
  case inr.inl => rw [hx]; exact exec_answers i s
  case inr.inr.inr.inl => rw [hx]; exact sequencerStep_answers h
  all_goals exact ⟨_, hx⟩

/-- Settles O12: the one fault is that of a `TRANSMIT` step outside the frame, which R36 (4) excludes. -/
theorem noTransitionStopsHsb : Obligations.NoTransitionStopsHsb := fun s h => runTurn_answers s.nextTurn h.afterTurn

/-! ### The writers of each field -/

theorem SamePersistent.refl (s : State) : SamePersistent s s := ⟨rfl, rfl, rfl, rfl, rfl, rfl, rfl, rfl, rfl⟩

/-- R201: of a state the injector writes the draws that it uses up. -/
theorem injected_same (s : State) (p r : Bytes) :
    SamePersistent s { (inject p s).state with response := r } := by
  rw [inject_state]
  exact .refl s

/-- The table of R38 for one turn that takes `s` to `t`: for each field of R22, the turns that can change it and what
they write. -/
structure WritersOfR38 (turn : Turn) (s t : State) : Prop where
  rxb : t.rxb ≠ s.rxb → (∃ c, turn = .channel c) ∨ ∃ p c, turn = .host p ∧ decode p = .ok (.rxDeliver c)
  emuEn : t.emuEn ≠ s.emuEn →
      ∃ p a, turn = .host p ∧ decode p = .ok (.macSetEmu a) ∧ (t.emuEn = true ↔ a = 1)
  txf : t.txf ≠ s.txf → ∃ p, turn = .host p ∧ decode p = .ok (.macSend t.txf) ∧ s.emuEn = true
  macState : t.macState ≠ s.macState →
      turn = .sequencer
      ∨ ∃ p w, turn = .host p ∧ decode p = .ok (.macSend w) ∧ s.emuEn = true ∧ t.macState = .sense
  attempt : t.attempt ≠ s.attempt →
      (turn = .sequencer ∧ s.macState = .backoff ∧ s.backoffCnt = 0 ∧ t.attempt = s.attempt + 1)
      ∨ ∃ p w, turn = .host p ∧ decode p = .ok (.macSend w) ∧ s.emuEn = true ∧ t.attempt = 0
  txIdx : t.txIdx ≠ s.txIdx →
      (turn = .sequencer ∧ s.macState = .sense ∧ t.macState = .transmit ∧ t.txIdx = 0)
      ∨ (turn = .sequencer ∧ s.macState = .transmit ∧ t.txIdx = s.txIdx + 1)
      ∨ ∃ p w, turn = .host p ∧ decode p = .ok (.macSend w) ∧ s.emuEn = true ∧ t.txIdx = 0
  backoffCnt : t.backoffCnt ≠ s.backoffCnt →
      (turn = .sequencer ∧ (s.macState = .sense ∨ s.macState = .collided) ∧ t.macState = .backoff)
      ∨ (turn = .tick ∧ s.macState = .backoff ∧ t.backoffCnt.toNat + 1 = s.backoffCnt.toNat)
      ∨ ∃ p w, turn = .host p ∧ decode p = .ok (.macSend w) ∧ s.emuEn = true ∧ t.backoffCnt = 0
  jamFlag : t.jamFlag ≠ s.jamFlag →
      (turn = .sequencer ∧ s.macState = .collided ∧ t.jamFlag = true)
      ∨ (∃ p w, turn = .host p ∧ decode p = .ok (.macSend w) ∧ s.emuEn = true ∧ t.jamFlag = false)
      ∨ ∃ p, turn = .host p ∧ decode p = .ok .macStatsReset ∧ t.jamFlag = false
  collisionCount : t.collisionCount ≠ s.collisionCount →
      (turn = .sequencer ∧ s.macState = .collided ∧ t.collisionCount = s.collisionCount + 1)
      ∨ ∃ p, turn = .host p ∧ decode p = .ok .macStatsReset ∧ t.collisionCount = 0

namespace WritersOfR38

variable {s t : State}

/-- A turn that writes none of the nine fields. -/
theorem of_same {turn : Turn} (h : SamePersistent s t) : WritersOfR38 turn s t := by
  obtain ⟨hrxb, hemuEn, hmacState, hattempt, htxIdx, hbackoffCnt, htxf, hjamFlag, hcollisionCount⟩ := h
  exact ⟨absurd hrxb, absurd hemuEn, absurd htxf, absurd hmacState, absurd hattempt, absurd htxIdx, absurd hbackoffCnt,
    absurd hjamFlag, absurd hcollisionCount⟩

/-- What stands before a turn's own writes, a draw, the channel's answer or the schedule, changes none of the nine
fields. -/
theorem after_same {turn : Turn} {u : State} (hsame : SamePersistent s u) (h : WritersOfR38 turn u t) :
    WritersOfR38 turn s t := by
  obtain ⟨hrxb, hemuEn, hmacState, hattempt, htxIdx, hbackoffCnt, htxf, hjamFlag, hcollisionCount⟩ := hsame
  constructor
  case rxb => exact hrxb ▸ h.rxb
  case emuEn => exact hemuEn ▸ h.emuEn
  case txf => exact htxf ▸ hemuEn ▸ h.txf
  case macState => exact hmacState ▸ hemuEn ▸ h.macState
  case attempt => exact hmacState ▸ hattempt ▸ hbackoffCnt ▸ hemuEn ▸ h.attempt
  case txIdx => exact hmacState ▸ htxIdx ▸ hemuEn ▸ h.txIdx
  case backoffCnt => exact hmacState ▸ hbackoffCnt ▸ hemuEn ▸ h.backoffCnt
  case jamFlag => exact hmacState ▸ hjamFlag ▸ hemuEn ▸ h.jamFlag
  case collisionCount => exact hmacState ▸ hcollisionCount ▸ h.collisionCount

/-- R23: of the nine fields a delivery writes the receive buffer. -/
theorem delivered {turn : Turn} {chunk : Bytes}
    (hturn : (∃ c, turn = .channel c) ∨ ∃ p c, turn = .host p ∧ decode p = .ok (.rxDeliver c)) :
    WritersOfR38 turn s (deliver chunk s) := by
  obtain ⟨events, hframe⟩ := deliver_frame chunk s
  rw [hframe]
  constructor
  case rxb => exact fun _ => hturn
  all_goals exact absurd rfl

/-- R211: an accepted send in emulation mode writes six fields. -/
theorem latched {p w : Bytes} (hd : decode p = .ok (.macSend w)) (he : s.emuEn = true) :
    WritersOfR38 (.host p) s ((s.latch w).answer []) := by
  constructor
  case txf => exact fun _ => ⟨p, rfl, hd, he⟩
  case macState => exact fun _ => .inr ⟨p, w, rfl, hd, he, rfl⟩
  case attempt => exact fun _ => .inr ⟨p, w, rfl, hd, he, rfl⟩
  case txIdx => exact fun _ => .inr (.inr ⟨p, w, rfl, hd, he, rfl⟩)
  case backoffCnt => exact fun _ => .inr (.inr ⟨p, w, rfl, hd, he, rfl⟩)
  case jamFlag => exact fun _ => .inr (.inl ⟨p, w, rfl, hd, he, rfl⟩)
  all_goals exact absurd rfl

/-- R213. -/
theorem emuSet {p : Bytes} {a : Byte} (hd : decode p = .ok (.macSetEmu a)) :
    WritersOfR38 (.host p) s ((s.setEmu (a == 1)).answer []) := by
  constructor
  case emuEn => exact fun _ => ⟨p, a, rfl, hd, beq_iff_eq⟩
  all_goals exact absurd rfl

/-- R214. -/
theorem statsReset {p : Bytes} (hd : decode p = .ok .macStatsReset) :
    WritersOfR38 (.host p) s (s.clearCollisions.clearJam.answer []) := by
  constructor
  case jamFlag => exact fun _ => .inr (.inr ⟨p, rfl, hd, rfl⟩)
  case collisionCount => exact fun _ => .inr ⟨p, rfl, hd, rfl⟩
  all_goals exact absurd rfl

theorem of_exec {p : Bytes} {i : Instr} (hd : decode p = .ok i) (he : exec i s = .next t) :
    WritersOfR38 (.host p) s t := by
  rcases exec_cases i s with ⟨r, hx⟩ | ⟨c, rfl, -, hx⟩ | ⟨q, r, -, hx⟩ | ⟨w, rfl, -, -, -, hemu, hx⟩
    | ⟨w, e, -, -, -, -, hx⟩ | ⟨a, rfl, hx⟩ | ⟨rfl, hx⟩ | ⟨a, r, -, hx⟩ <;> rw [hx] at he <;> cases he
  case inr.inl => exact delivered (.inr ⟨p, c, rfl, hd⟩)
  case inr.inr.inl => exact of_same (injected_same s q r)
  case inr.inr.inr.inl => exact latched hd hemu
  case inr.inr.inr.inr.inr.inl => exact emuSet hd
  case inr.inr.inr.inr.inr.inr.inl => exact statsReset hd
  all_goals exact of_same (.refl s)

/-- R221. -/
theorem of_senseStep (hm : s.macState = .sense) : WritersOfR38 .sequencer s (senseStep s) := by
  rcases senseStep_cases s with ⟨-, hs⟩ | ⟨-, -, hs⟩ | ⟨-, -, hs⟩ <;> rw [hs] <;> constructor
  case inr.inl.backoffCnt => exact fun _ => .inl ⟨rfl, .inl hm, rfl⟩
  case inr.inr.txIdx => exact fun _ => .inl ⟨rfl, hm, rfl, rfl⟩
  case inl.macState | inr.inl.macState | inr.inr.macState => exact fun _ => .inl rfl
  all_goals exact absurd rfl

/-- R222: an aborted attempt. -/
theorem collided (cause : CollisionCause) : WritersOfR38 .sequencer s (s.collide cause) := by
  constructor
  case macState => exact fun _ => .inl rfl
  all_goals exact absurd rfl

/-- R222: a written byte moves the index on, and after the last one the state. -/
theorem byteWritten (hm : s.macState = .transmit) : WritersOfR38 .sequencer s s.byteWritten := by
  rcases byteWritten_cases s with ⟨-, hw⟩ | ⟨-, hw⟩ <;> rw [hw] <;> constructor
  case inl.macState => exact fun _ => .inl rfl
  case inl.txIdx | inr.txIdx => exact fun _ => .inr (.inl ⟨rfl, hm, rfl⟩)
  all_goals exact absurd rfl

theorem of_transmitStep (hm : s.macState = .transmit) (hs : transmitStep s = .next t) :
    WritersOfR38 .sequencer s t := by
  rcases transmitStep_cases s with ⟨-, ht⟩ | ⟨-, -, ht⟩ | ⟨b, -, -, ⟨-, ht⟩ | ⟨-, ht⟩⟩ <;> rw [ht] at hs <;> cases hs
  case inl => exact after_same (u := s.afterDraw) (.refl s) (collided .trial)
  case inr.inr.inl => exact after_same (u := s.afterDraw.chanWrite [b]) (.refl s) (byteWritten hm)
  case inr.inr.inr => exact after_same (u := s.afterDraw.chanWrite [b]) (.refl s) (collided .write)

/-- R224. -/
theorem of_collidedStep (hm : s.macState = .collided) : WritersOfR38 .sequencer s (collidedStep s) := by
  rw [collidedStep_eq]
  constructor
  case macState => exact fun _ => .inl rfl
  case backoffCnt => exact fun _ => .inl ⟨rfl, .inr hm, rfl⟩
  case jamFlag => exact fun _ => .inl ⟨rfl, hm, rfl⟩
  case collisionCount => exact fun _ => .inl ⟨rfl, hm, rfl⟩
  all_goals exact absurd rfl

/-- R225. -/
theorem of_expireStep (hm : s.macState = .backoff) (hc : s.backoffCnt = 0) :
    WritersOfR38 .sequencer s (expireStep s) := by
  constructor
  case macState => exact fun _ => .inl rfl
  case attempt => exact fun _ => .inl ⟨rfl, hm, hc, rfl⟩
  all_goals exact absurd rfl

theorem of_sequencerStep (hs : sequencerStep s = .next t) : WritersOfR38 .sequencer s t := by
  rcases sequencerStep_cases s with ⟨hm, hq⟩ | ⟨hm, hq⟩ | ⟨hm, hq⟩ | ⟨hm, hc, hq⟩ | ⟨-, hq⟩ <;> rw [hq] at hs
  case inl => cases hs; exact of_senseStep hm
  case inr.inl => exact of_transmitStep hm hs
  case inr.inr.inl => cases hs; exact of_collidedStep hm
  case inr.inr.inr.inl => cases hs; exact of_expireStep hm hc
  case inr.inr.inr.inr => cases hs; exact of_same (.refl s)

/-- R227. -/
theorem of_slotTick (s : State) : WritersOfR38 .tick s (slotTick s) := by
  rcases slotTick_cases s with ⟨hm, hc, hs⟩ | ⟨-, hs⟩ <;> rw [hs]
  case inl =>
    have hcount : (s.backoffCnt - 1).toNat + 1 = s.backoffCnt.toNat := by
      rw [backoffCnt_pred_toNat hc]
      exact Nat.succ_pred (BitVec.toNat_eq.not.1 hc)
    constructor
    case backoffCnt => exact fun _ => .inr (.inl ⟨rfl, hm, hcount⟩)
    all_goals exact absurd rfl
  case inr => exact of_same (.refl s)

theorem of_runTurn {turn : Turn} (hne : turn ≠ .reset) (hr : runTurn turn s = .next t) : WritersOfR38 turn s t := by
  rcases runTurn_cases turn s with ⟨e, hx⟩ | ⟨p, i, rfl, hd, hx⟩ | ⟨c, rfl, -, hx⟩ | ⟨rfl, hx⟩ | ⟨rfl, hx⟩ | ⟨hreset, -⟩
  case inl => rw [hx] at hr; cases hr; exact of_same (.refl s)
  case inr.inl => exact of_exec hd (hx ▸ hr)
  case inr.inr.inl => rw [hx] at hr; cases hr; exact delivered (.inl ⟨c, rfl⟩)
  case inr.inr.inr.inl => exact of_sequencerStep (hx ▸ hr)
  case inr.inr.inr.inr.inl => rw [hx] at hr; cases hr; exact of_slotTick s
  case inr.inr.inr.inr.inr => exact absurd hreset hne

end WritersOfR38

/-- Settles O55: the table of R38 holds of every turn but reset (`WritersOfR38.of_runTurn`), and taking the turn off the
schedule writes none of the nine fields. -/
theorem fieldsHaveTheirWriters : Obligations.FieldsHaveTheirWriters := by
  intro s t h hne
  have hwriters : WritersOfR38 s.nextTurn s t :=
    .after_same (u := s.afterTurn) (.refl s) (.of_runTurn hne h)
  obtain ⟨hrxb, hemuEn, htxf, hmacState, hattempt, htxIdx, hbackoffCnt, hjamFlag, hcollisionCount⟩ := hwriters
  exact ⟨hrxb, hemuEn, htxf, hmacState, hattempt, htxIdx, hbackoffCnt, hjamFlag, hcollisionCount⟩

end Sys2Proof.Machine
end

section
/-! PROOFS. The memories of HSB (spec/20_memory.md): the latched frame is held while the MAC is busy (O42). -/

namespace Sys2Proof.Machine

theorem MacState.busy_eq_true_iff {m : MacState} :
    m.busy = true ↔ m = .sense ∨ m = .transmit ∨ m = .collided ∨ m = .backoff := by
  cases m <;> simp [MacState.busy]

/-- R211: the busy test comes before the mode is read, so `emu_en` plays no part. -/
theorem exec_macSend_busy {w : Bytes} {s : State} (hr : stuffedInRange w = true) (hb : s.macState.busy = true) :
    exec (.macSend w) s = .next (s.raise .errMacBusy) := by
  simp only [exec, execMacSend, hr, hb, State.guarded_true, if_true]

/-- Settles O42: the refusal of `exec_macSend_busy` in each of the four states R24 calls busy; raising an error writes
the response alone, and the code of ERR_MAC_BUSY is 40. -/
theorem sendWhileBusyRefused : Obligations.SendWhileBusyRefused := by
  intro w s h1 h2 hq
  have hbusy : s.macState.busy = true := MacState.busy_eq_true_iff.2 hq
  have hrefused := exec_macSend_busy (stuffedInRange_iff.2 ⟨h1, h2⟩) hbusy
  have hraise : s.raise .errMacBusy = { s with response := [0x40] } := rfl
  rw [hrefused, hraise]

end Sys2Proof.Machine
end

section
/-! PROOFS. The encoding of commands and responses (spec/30_encoding.md): the decoder against the encoder (O5 to O8),
the packet step (O2 to O4), the refusals and the statuses of responses (O9, O10). -/

namespace Sys2Proof

/-! ### The decoder against the encoder -/

/-- R82 steps 1 to 3 on a packet that is not empty, in terms of the encoder: no opcode, no operation's packet, or the
packet of the operation it decodes to. -/
theorem decode_cons_cases (b : Byte) (rest : Bytes) :
    (Opcode.ofByte b = none ∧ decode (b :: rest) = .error .errIllegalOp)
    ∨ ((∃ o, Opcode.ofByte b = some o) ∧ (∀ i : Instr, i.encodable = true → encode i ≠ b :: rest)
        ∧ decode (b :: rest) = .error .errFormat)
    ∨ ∃ i : Instr, i.encodable = true ∧ encode i = b :: rest ∧ decode (b :: rest) = .ok i := by
  cases ho : Opcode.ofByte b with
  | none => exact .inl ⟨rfl, by simp only [decode, ho]⟩
  | some o =>
    have hcode := Opcode.code_of_ofByte ho
    cases hp : parseOperands o rest with
    | none =>
      refine .inr (.inl ⟨⟨o, rfl⟩, fun i hi he => ?_, by simp only [decode, ho, hp]⟩)
      obtain ⟨hb, hrest⟩ := List.cons.inj he
      have hop : i.opcode = o := Option.some.inj (by rw [← Opcode.ofByte_code, hb, ho])
      rw [parseOperands_iff.2 ⟨hi, hop, hrest⟩] at hp
      cases hp
    | some i =>
      obtain ⟨hi, hop, hrest⟩ := parseOperands_iff.1 hp
      exact .inr (.inr ⟨i, hi, by rw [encode, hop, hcode, hrest], by simp only [decode, ho, hp]⟩)

/-- An operation's packet begins with an opcode of the map. -/
theorem Opcode.ofByte_of_encode {i : Instr} {b : Byte} {rest : Bytes} (h : encode i = b :: rest) :
    Opcode.ofByte b = some i.opcode := by
  rw [← (List.cons.inj h).1, Opcode.ofByte_code]

/-- R83, R87: a packet decodes to an operation exactly when it is the operation's own packet. -/
theorem decode_encode {i : Instr} (hi : i.encodable = true) : decode (encode i) = .ok i := by
  have hparse : parseOperands i.opcode i.operandBytes = some i := parseOperands_iff.2 ⟨hi, rfl, rfl⟩
  simp only [encode, decode, Opcode.ofByte_code, hparse]

theorem encode_of_decode {packet : Bytes} {i : Instr} (h : decode packet = .ok i) :
    i.encodable = true ∧ encode i = packet := by
  cases packet with
  | nil => cases h
  | cons b rest =>
    rcases decode_cons_cases b rest with ⟨-, hd⟩ | ⟨-, -, hd⟩ | ⟨j, hj, he, hd⟩ <;> rw [hd] at h <;> cases h
    exact ⟨hj, he⟩

/-- Settles O6: `parseOperands_iff` read from the operation to its operand bytes, behind the opcode's own byte. -/
theorem decodeOfEncode : Obligations.DecodeOfEncode := fun _ hi => decode_encode hi

/-- Settles O7: the only accepting case of `decode_cons_cases` hands back the operation's own packet. -/
theorem onlyEncodingsDecode : Obligations.OnlyEncodingsDecode := fun _ _ h => encode_of_decode h

/-- Settles O5: each packet is the model's own encoding of its operation, and encodings decode (`decode_encode`). -/
theorem samplePacketsDecode : Obligations.SamplePacketsDecode := by
  have sample {i : Instr} {packet : Bytes} (hi : i.encodable = true) (he : encode i = packet) : decode packet = .ok i :=
    he ▸ decode_encode hi
  have hlength : (List.replicate 258 (0xAA : Byte)).length = 258 := List.length_replicate
  have hfits : (Instr.rxDeliver (List.replicate 258 0xAA)).encodable = true := by
    rw [Instr.encodable, hlength]; rfl
  have hlong : encode (.rxDeliver (List.replicate 258 0xAA)) = 0x42 :: 0x01 :: 0x02 :: List.replicate 258 0xAA := by
    rw [encode, Instr.operandBytes, encodeS, hlength]; rfl
  refine ⟨?_, ?_, ?_, ?_, ?_, ?_, ?_, ?_, ?_, ?_, ?_, ?_, ?_, ?_, ?_, ?_, ?_, ?_, ?_, sample hfits hlong⟩
  all_goals exact sample rfl rfl

/-! ### The four tests of R82 in their order -/

theorem decodeCommand_of_error {packet : Bytes} {e : Status} (h : decode packet = .error e) :
    decodeCommand packet = .error e := by
  simp only [decodeCommand, h]

theorem decodeCommand_of_ok {packet : Bytes} {i : Instr} (h : decode packet = .ok i) :
    decodeCommand packet = if i.wellFormed then .ok i else .error .errOperand := by
  simp only [decodeCommand, h]

theorem decodeCommand_encode {i : Instr} (hi : i.encodable = true) :
    decodeCommand (encode i) = if i.wellFormed then .ok i else .error .errOperand :=
  decodeCommand_of_ok (decode_encode hi)

/-- Every row of the opcode map has an operation. -/
theorem Opcode.exists_instr (o : Opcode) : ∃ i : Instr, i.opcode = o := by
  cases o
  case fecKcount => exact ⟨.fecKcount 0, rfl⟩
  case fecEncode => exact ⟨.fecEncode [], rfl⟩
  case fecVerify => exact ⟨.fecVerify [] [], rfl⟩
  case fecCorrect => exact ⟨.fecCorrect [] [], rfl⟩
  case frmSerialize => exact ⟨.frmSerialize 0 0 [] [], rfl⟩
  case frmDeserialize => exact ⟨.frmDeserialize [], rfl⟩
  case frmCheck => exact ⟨.frmCheck [], rfl⟩
  case stfStuff => exact ⟨.stfStuff [], rfl⟩
  case stfUnstuff => exact ⟨.stfUnstuff [], rfl⟩
  case segSegment => exact ⟨.segSegment [], rfl⟩
  case rxFind => exact ⟨.rxFind [], rfl⟩
  case rxDeliver => exact ⟨.rxDeliver [], rfl⟩
  case injInject => exact ⟨.injInject [], rfl⟩
  case macSend => exact ⟨.macSend [], rfl⟩
  case macStatus => exact ⟨.macStatus, rfl⟩
  case macSetEmu => exact ⟨.macSetEmu 0, rfl⟩
  case macStatsReset => exact ⟨.macStatsReset, rfl⟩
  case macStats => exact ⟨.macStats, rfl⟩
  case macBkdelay => exact ⟨.macBkdelay 0, rfl⟩

/-- A byte is an opcode exactly when some operation's packet begins with it. -/
theorem Opcode.ofByte_isSome_iff {b : Byte} :
    (∃ o, Opcode.ofByte b = some o) ↔ ∃ i : Instr, (encode i).head? = some b := by
  constructor
  · rintro ⟨o, ho⟩
    obtain ⟨i, rfl⟩ := o.exists_instr
    exact ⟨i, congrArg some (Opcode.code_of_ofByte ho)⟩
  · rintro ⟨i, hi⟩
    exact ⟨i.opcode, by rw [← Option.some.inj hi, Opcode.ofByte_code]⟩

/-- Settles O8: the first two clauses are the two errors of `decode_cons_cases`, whose other cases each contradict the
clause; the last two are the operand test on an operation's own packet. -/
theorem decoderReportsFirstFault : Obligations.DecoderReportsFirstFault := by
  refine ⟨rfl, fun b rest => ⟨fun hno => ?_, fun hhead hnot => ?_, fun i hi he hw => ?_, fun i hw he => ?_⟩⟩
  · rcases decode_cons_cases b rest with ⟨-, hd⟩ | ⟨ho, -, -⟩ | ⟨i, -, he, -⟩
    · exact decodeCommand_of_error hd
    · obtain ⟨i, hi⟩ := Opcode.ofByte_isSome_iff.1 ho
      exact absurd hi (hno i)
    · exact absurd (by rw [he]; rfl) (hno i)
  · obtain ⟨o, ho⟩ := Opcode.ofByte_isSome_iff.2 hhead
    rcases decode_cons_cases b rest with ⟨hnone, -⟩ | ⟨-, -, hd⟩ | ⟨i, hi, he, -⟩
    · rw [hnone] at ho; cases ho
    · exact decodeCommand_of_error hd
    · exact absurd he (hnot i hi)
  · rw [← he, decodeCommand_encode hi, hw]; rfl
  · rw [← he, decodeCommand_encode (Instr.encodable_of_wellFormed hw), hw]; rfl

/-- R82 steps 1 to 3 refuse with the first two errors only. -/
theorem decode_error_cases {packet : Bytes} {e : Status} (h : decode packet = .error e) :
    e = .errIllegalOp ∨ e = .errFormat := by
  cases packet with
  | nil => cases h; exact .inr rfl
  | cons b rest =>
    rcases decode_cons_cases b rest with ⟨-, hd⟩ | ⟨-, -, hd⟩ | ⟨i, -, -, hd⟩ <;> rw [hd] at h <;> cases h
    · exact .inl rfl
    · exact .inr rfl

end Sys2Proof

namespace Sys2Proof.Machine

/-! ### The packet step -/

theorem runPacket_of_error {packet : Bytes} {e : Status} (h : decode packet = .error e) (s : State) :
    runPacket packet s = .next (s.raise e) := by
  simp only [runPacket, h]

theorem runPacket_of_ok {packet : Bytes} {i : Instr} (h : decode packet = .ok i) (s : State) :
    runPacket packet s = exec i s := by
  simp only [runPacket, h]

theorem runPacket_encode {i : Instr} (hi : i.encodable = true) (s : State) : runPacket (encode i) s = exec i s :=
  runPacket_of_ok (decode_encode hi) s

/-- Settles O2: a scheduled turn is the next one (`step_scheduled`), and the packet's turn is its operation. -/
theorem packetStepRunsDecodedOperation : Obligations.PacketStepRunsDecodedOperation := by
  intro s rest packet i h
  rw [step_scheduled]
  exact runPacket_of_ok h _

/-- Settles O3: the channel's packet is that of `RX.DELIVER`, which decodes back for a chunk that fits `len16`. -/
theorem channelTurnIsRxDeliver : Obligations.ChannelTurnIsRxDeliver := by
  intro s rest chunk hc
  have hfits : (Instr.rxDeliver chunk).encodable = true := decide_eq_true (Nat.lt_succ_of_le hc)
  rw [step_scheduled]
  exact runPacket_encode hfits _

/-! ### The operand test -/

/-- R82 step 4: the meaning of every operation tests the ranges of R86 before it does anything. -/
theorem exec_guarded (i : Instr) (s : State) : ∃ performed, exec i s = s.guarded i.wellFormed performed := by
  cases i
  case frmSerialize total sequence payload fcs =>
    refine ⟨.next (s.answer (seqField (serialize ⟨total, sequence, payload, fcs⟩))), ?_⟩
    rw [Instr.wellFormed, Bool.and_assoc]
    rfl
  case fecKcount | macStatus | macStatsReset | macStats | macBkdelay => exact ⟨_, (State.guarded_true s _).symm⟩
  all_goals exact ⟨_, rfl⟩

theorem exec_of_not_wellFormed {i : Instr} (hw : i.wellFormed = false) (s : State) :
    exec i s = .next (s.raise .errOperand) := by
  obtain ⟨performed, h⟩ := exec_guarded i s
  rw [h, hw, State.guarded_false]

/-- Settles O9: `exec_guarded` on a failed test; raising an error writes the response alone, and the code is 03. -/
theorem operandOutOfRangeRefused : Obligations.OperandOutOfRangeRefused := fun _ s hw => exec_of_not_wellFormed hw s

/-- Settles O4: steps 1 to 3 raise the decoder's error, step 4 is the operation's own test of its operands. -/
theorem refusedPacketOnlyAnswers : Obligations.RefusedPacketOnlyAnswers := by
  intro s rest packet e h
  rw [step_scheduled]
  cases hd : decode packet with
  | error e' =>
    rw [decodeCommand_of_error hd] at h
    cases h
    refine ⟨e.code, runPacket_of_error hd _, ?_⟩
    rcases decode_error_cases hd with rfl | rfl
    · exact .inl ⟨rfl, rfl⟩
    · exact .inr (.inl ⟨rfl, rfl⟩)
  | ok i =>
    rw [decodeCommand_of_ok hd] at h
    cases hw : i.wellFormed with
    | true => rw [hw] at h; cases h
    | false =>
      rw [hw] at h
      cases h
      exact ⟨0x03, (runPacket_of_ok hd _).trans (exec_of_not_wellFormed hw _), .inr (.inr ⟨rfl, rfl⟩)⟩

end Sys2Proof.Machine
end

section
/-! PROOFS. The responses of the operations (spec/30_encoding.md R84, R88): every response carries a status that R251
lets its operation give (O10), and the results of `FRM.DESERIALIZE` (O24). -/

namespace Sys2Proof.Machine

/-! ### Responses and their status -/

/-- R84, R251: the answer to `i` is a response that begins with `OK`, or is one error that `i` may raise. -/
def AnswersWithStatus (i : Instr) (r : Result) : Prop :=
  ∃ t e results, r = .next t ∧ t.response = Status.code e :: results ∧ (e = .ok ∨ (mayRaise i e = true ∧ results = []))

namespace AnswersWithStatus

variable {i : Instr} {r : Result}

theorem of_ok {t : State} (h : ∃ results, t.response = Status.ok.code :: results) : AnswersWithStatus i (.next t) :=
  let ⟨results, hr⟩ := h
  ⟨t, .ok, results, rfl, hr, .inl rfl⟩

theorem of_error {t : State} {e : Status} (he : mayRaise i e = true) (h : t.response = [e.code]) :
    AnswersWithStatus i (.next t) :=
  ⟨t, e, [], rfl, h, .inr ⟨he, rfl⟩⟩

theorem answer (s : State) (results : Bytes) : AnswersWithStatus i (.next (s.answer results)) := of_ok ⟨results, rfl⟩

theorem raise {e : Status} (he : mayRaise i e = true) (s : State) : AnswersWithStatus i (.next (s.raise e)) :=
  of_error he rfl

/-- The operand test adds `ERR_OPERAND` only to an operation that R251 lists for it. -/
theorem guarded {b : Bool} (s : State) (hm : mayRaise i .errOperand = true) (h : AnswersWithStatus i r) :
    AnswersWithStatus i (s.guarded b r) := by
  cases b
  · exact raise hm s
  · exact h

/-- "any `len16`" is no test of a packet's operands: every length that fits the field passes it. -/
theorem guarded_len16 {data : Bytes} (s : State) (hl : data.length < 65536) (h : AnswersWithStatus i r) :
    AnswersWithStatus i (s.guarded (anyLen16 data) r) := by
  rw [anyLen16_iff.2 (Nat.le_of_lt_succ hl), State.guarded_true]
  exact h

end AnswersWithStatus

/-- R104 to R107: the three errors of the deserializer. -/
theorem mayRaise_of_deserialize_error {bytes b : Bytes} {e : Status} (h : deserialize b = .error e) :
    mayRaise (.frmDeserialize bytes) e = true := by
  rcases deserialize_cases b with ⟨-, hd⟩ | ⟨-, -, hd⟩ | ⟨-, -, -, hd⟩ | ⟨-, -, -, -, n, -, -, hd⟩ <;>
    rw [hd] at h <;> cases h <;> rfl

theorem unstuff_error {b : Bytes} {e : Status} (h : unstuff b = .error e) : e = .errDanglingEscape := by
  cases b with
  | nil => cases h
  | cons first rest =>
    simp only [unstuff] at h
    cases hu : unstuffRest rest <;> rw [hu] at h <;> cases h
    rfl

theorem execFrmDeserialize_answers {b : Bytes} (hl : b.length < 65536) (s : State) :
    AnswersWithStatus (.frmDeserialize b) (execFrmDeserialize b s) := by
  refine .guarded_len16 s hl ?_
  cases hd : deserialize b with
  | ok f => exact .answer s _
  | error e => exact .raise (mayRaise_of_deserialize_error hd) s

theorem execStfUnstuff_answers {b : Bytes} (hl : b.length < 65536) (s : State) :
    AnswersWithStatus (.stfUnstuff b) (execStfUnstuff b s) := by
  refine .guarded_len16 s hl ?_
  cases hu : unstuff b with
  | ok frame => exact .answer s _
  | error e => cases unstuff_error hu; exact .raise rfl s

theorem execRxDeliver_answers {chunk : Bytes} (hl : chunk.length < 65536) (s : State) :
    AnswersWithStatus (.rxDeliver chunk) (execRxDeliver chunk s) := by
  refine .guarded_len16 s hl ?_
  rcases deliver_response chunk s with hok | ⟨herr, -⟩
  · exact .of_ok hok
  · exact .of_error (e := .errRxOverflow) rfl herr

theorem execMacSend_answers (w : Bytes) (s : State) : AnswersWithStatus (.macSend w) (execMacSend w s) := by
  refine .guarded s rfl ?_
  split
  · exact .raise rfl s
  split
  · exact .answer _ _
  split
  · exact .answer _ _
  · exact .raise rfl _

theorem exec_answersWithStatus {i : Instr} (hi : i.encodable = true) (s : State) : AnswersWithStatus i (exec i s) := by
  cases i
  case frmDeserialize b => exact execFrmDeserialize_answers (of_decide_eq_true hi) s
  case stfUnstuff b => exact execStfUnstuff_answers (of_decide_eq_true hi) s
  case rxDeliver chunk => exact execRxDeliver_answers (of_decide_eq_true hi) s
  case macSend w => exact execMacSend_answers w s
  case frmCheck | rxFind => exact .guarded_len16 s (of_decide_eq_true hi) (.answer s _)
  case fecKcount | macStatus | macStatsReset | macStats | macBkdelay => exact .answer _ _
  all_goals exact .guarded s rfl (.answer _ _)

/-- Settles O10: `exec_answersWithStatus`, one operation at a time. -/
theorem responsesCarryTheirStatus : Obligations.ResponsesCarryTheirStatus := fun _ s hi => exec_answersWithStatus hi s

/-! ### `FRM.DESERIALIZE` on a serialized frame -/

/-- A slice that begins after the first bytes and is as long as what follows it is what follows it. -/
theorem slice_append_middle (pre mid post : Bytes) :
    slice (pre ++ (mid ++ post)) pre.length (pre.length + mid.length) = mid := by
  rw [slice, List.drop_left, Nat.add_sub_cancel_left, List.take_left]

/-- The lengths that the split rule of R72 and R104 tells apart. -/
def Frame.Splits (f : Frame) : Prop :=
  (f.fcs.length = 1 ∧ f.payload.length ≤ 15) ∨ (f.fcs.length = 2 ∧ 15 ≤ f.payload.length ∧ f.payload.length ≤ 64)

/-- R104: the deserializer gives a serialized frame back where its FCS has the length that the split rule expects. -/
theorem deserialize_serialize {f : Frame} (h : f.Splits) : deserialize (serialize f) = .ok f := by
  have hlen := serialize_length f
  unfold Frame.Splits at h
  rcases deserialize_cases (serialize f) with ⟨hshort, -⟩ | ⟨-, hflags, -⟩ | ⟨hlong, -⟩ | ⟨-, -, -, -, n, hn, -, hd⟩
  · omega
  · rw [serialize_head, serialize_last] at hflags
    simp at hflags
  · omega
  · obtain rfl : n = f.payload.length := by split at hn <;> omega
    have hpayload : slice (serialize f) 3 (3 + f.payload.length) = f.payload := by
      have hs : serialize f =
          [Config.startFlag, f.total, f.sequence] ++ (f.payload ++ (f.fcs ++ [Config.endFlag])) := by
        simp only [serialize, List.append_assoc]
      rw [hs]
      exact slice_append_middle _ _ _
    have hfcs : slice (serialize f) (3 + f.payload.length) ((serialize f).length - 1) = f.fcs := by
      have hs : serialize f =
          ([Config.startFlag, f.total, f.sequence] ++ f.payload) ++ (f.fcs ++ [Config.endFlag]) := by
        simp only [serialize, List.append_assoc]
      have hstart : ([Config.startFlag, f.total, f.sequence] ++ f.payload).length = 3 + f.payload.length := by
        rw [List.length_append]; rfl
      have hstop : (serialize f).length - 1 = 3 + f.payload.length + f.fcs.length := by omega
      rw [hstop, hs, ← hstart]
      exact slice_append_middle _ _ _
    rw [hd, hpayload, hfcs]
    rfl

theorem exec_frmDeserialize_of_ok {b : Bytes} {f : Frame} (hl : b.length ≤ 65535) (h : deserialize b = .ok f)
    (s : State) : exec (.frmDeserialize b) s = .next (s.answer f.fields) := by
  simp only [exec, execFrmDeserialize, anyLen16_iff.2 hl, State.guarded_true, h]

/-- Settles O24: the bytes are a serialized frame, which `deserialize_serialize` gives back. -/
theorem deserializeSplitsByLength : Obligations.DeserializeSplitsByLength := by
  intro total sequence p fcs s h
  have hsplits : Frame.Splits ⟨total, sequence, p, fcs⟩ := h
  have hlen : (serialize ⟨total, sequence, p, fcs⟩).length ≤ 65535 := by
    rw [serialize_length]; dsimp only; omega
  exact exec_frmDeserialize_of_ok hlen (deserialize_serialize hsplits) s

end Sys2Proof.Machine
end

section
/-! PROOFS. `FEC.CORRECT` decides as R150 says (O16): the control bits, the syndrome and the parities of
spec/42_hamming_fec.md read as counts of ones. -/

namespace Sys2Proof.Machine

/-! ### Parities as counts of ones -/

/-- The number of control bits is the rounded-up logarithm of R141. -/
theorem controlBitCount_eq_kOf (n : Nat) : controlBitCount n = kOf n := by
  obtain ⟨henough, hleast⟩ := controlBitCount_spec n
  refine Nat.le_antisymm (Nat.le_of_not_lt fun hlt => ?_) (Nat.clog_le_of_le_pow henough)
  exact absurd (Nat.le_pow_clog (by decide) (8 * n + 1)) (Nat.not_le_of_lt (hleast _ hlt))

/-- The parity of a sum is the XOR of the parities. -/
theorem decide_odd_add (a b : Nat) :
    decide ((a + b) % 2 = 1) = (decide (a % 2 = 1) ^^ decide (b % 2 = 1)) := by
  rcases Nat.mod_two_eq_zero_or_one a with ha | ha <;> rcases Nat.mod_two_eq_zero_or_one b with hb | hb <;>
    simp [Nat.add_mod, ha, hb]

theorem decide_odd_toNat (b : Bool) : decide (b.toNat % 2 = 1) = b := by cases b <;> rfl

theorem decide_odd_ite (b : Bool) : decide ((if b = true then 1 else 0) % 2 = 1) = b := by cases b <;> rfl

/-- The XOR of the selected bits of a sequence is the parity of how many of them are 1. -/
theorem xorWhere_eq_odd (selected : Nat → Bool) (pos : Nat) (bits : List Bool) :
    xorWhere selected pos bits
      = decide ((List.range bits.length).countP (fun j => selected (pos + j) && bits.getD j false) % 2 = 1) := by
  induction bits generalizing pos with
  | nil => rfl
  | cons d ds ih =>
    rw [xorWhere, ih, List.length_cons, List.range_succ_eq_map, List.countP_cons, List.countP_map, decide_odd_add,
      decide_odd_ite, Bool.xor_comm]
    congr 4
    refine List.countP_congr fun j _ => ?_
    rw [Function.comp_apply, List.getD_cons_succ, Nat.succ_eq_add_one, Nat.add_assoc, Nat.add_comm 1]

theorem byteBits_getD (b : Byte) {j : Nat} (h : j < 8) : (byteBits b).getD j false = b.getLsbD (7 - j) := by
  have hj : j = 0 ∨ j = 1 ∨ j = 2 ∨ j = 3 ∨ j = 4 ∨ j = 5 ∨ j = 6 ∨ j = 7 := by omega
  rcases hj with rfl | rfl | rfl | rfl | rfl | rfl | rfl | rfl <;> rfl

/-- Bit `j` of the data bits is the bit of R12, counted from 0, and 0 outside the payload. -/
theorem dataBits_getD (p : Bytes) (j : Nat) : (dataBits p).getD j false = dataBit p (j + 1) := by
  rw [dataBit, Nat.add_sub_cancel]
  induction p generalizing j with
  | nil => simp [dataBits]
  | cons b p ih =>
    have hcons : dataBits (b :: p) = byteBits b ++ dataBits p := List.flatMap_cons
    rw [hcons]
    rcases Nat.lt_or_ge j 8 with hj | hj
    · rw [List.getD_append _ _ _ _ hj, byteBits_getD b hj, Nat.div_eq_of_lt hj, Nat.mod_eq_of_lt hj,
        List.getD_cons_zero]
    · have hdiv : j / 8 = (j - 8) / 8 + 1 := by omega
      have hmod : j % 8 = (j - 8) % 8 := by omega
      rw [List.getD_append_right _ _ _ _ hj, byteBits_length, ih, hdiv, hmod, List.getD_cons_succ]

theorem xorWhere_dataBits (p : Bytes) (selected : Nat → Bool) :
    xorWhere selected 1 (dataBits p) = decide (countOnes p selected % 2 = 1) := by
  rw [xorWhere_eq_odd, dataBits_length]
  simp only [dataBits_getD, Nat.add_comm 1]
  rfl

/-- R142: a control bit is the parity of the data bits at the positions that have its bit set. -/
theorem controlBit_eq_odd (p : Bytes) (i : Nat) :
    controlBit p i = decide (countOnes p (fun pos => pos.testBit i) % 2 = 1) := xorWhere_dataBits p _

theorem dataParity_eq_odd (p : Bytes) : dataParity p = decide (countOnes p (fun _ => true) % 2 = 1) :=
  xorWhere_dataBits p _

theorem xorAll_eq_odd (bits : List Bool) : xorAll bits = decide (bits.countP id % 2 = 1) := by
  induction bits with
  | nil => rfl
  | cons b bits ih =>
    have hcons : xorAll (b :: bits) = (b ^^ xorAll bits) := rfl
    rw [hcons, ih, List.countP_cons, decide_odd_add, id, decide_odd_ite, Bool.xor_comm]

/-! ### The syndrome and the overall parity -/

/-- The number whose bit `i` is `bit i`, for `i < k`. -/
theorem sum_bits_testBit (bit : Nat → Bool) (k : Nat) :
    ((List.range k).map fun i => (bit i).toNat * 2 ^ i).sum < 2 ^ k
      ∧ ∀ j, ((List.range k).map fun i => (bit i).toNat * 2 ^ i).sum.testBit j = (decide (j < k) && bit j) := by
  induction k with
  | zero => simp
  | succ k ih =>
    obtain ⟨hlt, hbits⟩ := ih
    simp only [List.range_succ, List.map_append, List.map_singleton, List.sum_append, List.sum_singleton]
    generalize ((List.range k).map fun i => (bit i).toNat * 2 ^ i).sum = low at hlt hbits ⊢
    have htop : (bit k).toNat ≤ 1 := Bool.toNat_le _
    refine ⟨?_, fun j => ?_⟩
    · have := Nat.mul_le_mul_right (2 ^ k) htop
      rw [Nat.pow_succ]; omega
    · rw [Nat.add_comm, Nat.mul_comm, Nat.testBit_two_pow_mul_add _ hlt, hbits]
      rcases Nat.lt_trichotomy j k with hj | rfl | hj
      · simp [hj, Nat.lt_succ_of_lt hj]
      · cases bit j <;> simp
      · have hhigh : (bit k).toNat < 2 ^ (j - k) := Nat.lt_of_le_of_lt htop (Nat.one_lt_two_pow (by omega))
        rw [if_neg (by omega), Nat.testBit_lt_two_pow hhigh, decide_eq_false (by omega), Bool.false_and]

/-- R148: bit `i` of the syndrome says whether control bit `i` mismatches. -/
theorem syndrome_testBit (p fcs : Bytes) (i : Nat) :
    (syndrome p fcs).testBit i = true ↔
      i < kOf p.length ∧ wireBit fcs i ≠ decide (countOnes p (fun pos => pos.testBit i) % 2 = 1) := by
  have hbit : (syndrome p fcs).testBit i
      = (decide (i < controlBitCount p.length) && (controlBit p i ^^ fcsBit fcs i)) := (sum_bits_testBit _ _).2 i
  have hwire : fcsBit fcs i = wireBit fcs i := rfl
  rw [hbit, Bool.and_eq_true, decide_eq_true_iff, bne_iff_ne, controlBitCount_eq_kOf, controlBit_eq_odd, hwire, ne_comm]

/-- R148: the overall parity, over the data bits, the received parity bit and the control bits that the mode names. -/
theorem parityMismatch_eq_odd (mode : ParityMode) (p fcs : Bytes) :
    parityMismatch mode p fcs =
      decide ((countOnes p (fun _ => true) + (wireBit fcs (kOf p.length)).toNat
        + (List.range (kOf p.length)).countP fun i =>
          if mode = .received then wireBit fcs i
          else decide (countOnes p (fun pos => pos.testBit i) % 2 = 1)) % 2 = 1) := by
  have hparity (controls : List Bool) :
      ((dataParity p ^^ xorAll controls) ^^ fcsBit fcs (controlBitCount p.length))
        = decide ((countOnes p (fun _ => true) + (wireBit fcs (kOf p.length)).toNat + controls.countP id) % 2 = 1) := by
    rw [decide_odd_add, decide_odd_add, ← xorAll_eq_odd, decide_odd_toNat, ← dataParity_eq_odd, controlBitCount_eq_kOf]
    exact Bool.xor_right_comm _ _ _
  cases mode with
  | received =>
    refine (hparity (receivedControlBits p fcs)).trans ?_
    rw [receivedControlBits, List.countP_map, controlBitCount_eq_kOf]
    rfl
  | recomputed =>
    refine (hparity (controlBits p)).trans ?_
    rw [controlBits, List.countP_map, controlBitCount_eq_kOf]
    simp only [Function.comp_def, id, controlBit_eq_odd]
    rfl

/-! ### The tests of R150 -/

theorem exec_fecCorrect {p fcs : Bytes} (hp : p.length ≤ 64) (hf : fcs.length ≤ 2) (s : State) :
    exec (.fecCorrect p fcs) s = .next (s.answer (fecCorrect s.params.parityMode p fcs).fields) := by
  simp only [exec, execFecCorrect, payloadInRange_iff.2 hp, fcsInRange_iff.2 hf, Bool.and_true, State.guarded_true]

/-- R88, R150: the results in bytes, one layout for each outcome that the tests lead to. -/
theorem fecCorrect_fields (mode : ParityMode) (p fcs : Bytes) :
    (fecCorrect mode p fcs).fields =
      if p = [] then [0xFF, 0, 0, 0, 0]
      else if fecEncode p = fcs then 0x00 :: 0 :: 0 :: 0 :: BitVec.ofNat 8 p.length :: p
      else if fcs.length ≠ (kOf p.length + 1 + 7) / 8 then 0x02 :: 0 :: 0 :: 0 :: BitVec.ofNat 8 p.length :: p
      else if parityMismatch mode p fcs = true ∧ 1 ≤ syndrome p fcs ∧ syndrome p fcs ≤ 8 * p.length then
        0x01 :: BitVec.ofNat 8 (syndrome p fcs / 256) :: BitVec.ofNat 8 (syndrome p fcs) :: 1 :: BitVec.ofNat 8 p.length
          :: invertBit p (syndrome p fcs - 1)
      else
        0x02 :: BitVec.ofNat 8 (syndrome p fcs / 256) :: BitVec.ofNat 8 (syndrome p fcs)
          :: (if parityMismatch mode p fcs then 1 else 0) :: BitVec.ofNat 8 p.length :: p := by
  have hlen : fcsLength p.length = (kOf p.length + 1 + 7) / 8 := by rw [fcsLength, controlBitCount_eq_kOf]
  have hnil : p.length ≠ 0 → p ≠ [] := fun h hp => h (by rw [hp]; rfl)
  have hzero : be16 0 = [0, 0] := rfl
  rw [← hlen]
  rcases fecCorrect_cases mode p fcs with ⟨h0, h⟩ | ⟨h0, h1, h⟩ | ⟨h0, h1, h2, h⟩ | ⟨h0, h1, h2, h3, h4, h5, h⟩
    | ⟨h0, h1, h2, h3, h⟩ <;> rw [h]
  · obtain rfl := List.eq_nil_of_length_eq_zero h0
    rfl
  · rw [if_neg (hnil h0), if_pos h1, FecResult.fields, hzero]
    rfl
  · rw [if_neg (hnil h0), if_neg h1, if_pos h2, FecResult.fields, hzero]
    rfl
  · rw [if_neg (hnil h0), if_neg h1, if_neg (not_not_intro h2), if_pos ⟨h5, h3, h4⟩]
    simp only [FecResult.fields, shortField, len8, flipDataBit_length]
    rfl
  · rw [if_neg (hnil h0), if_neg h1, if_neg (not_not_intro h2), if_neg (fun hc => h3 ⟨hc.2.1, hc.2.2, hc.1⟩)]
    rfl

/-- Settles O16: the model's own syndrome and mismatch are those of R148 (`syndrome_testBit`, `parityMismatch_eq_odd`),
and the tests follow R150 (`fecCorrect_fields`). -/
theorem correctFollowsR150 : Obligations.CorrectFollowsR150 := by
  intro p fcs s hp hf
  refine ⟨syndrome p fcs, parityMismatch s.params.parityMode p fcs, syndrome_testBit p fcs, ?_, ?_⟩
  · rw [parityMismatch_eq_odd, decide_eq_true_iff]
  · rw [exec_fecCorrect hp hf, fecCorrect_fields, State.answer]
    simp only [apply_ite (List.cons Status.ok.code)]
    rfl

end Sys2Proof.Machine
end

section
/-! PROOFS. The turns of the agents other than the host (spec/60_exceptions.md R270): they keep the further schedule,
they leave a quiet MAC quiet, and left to itself a busy MAC comes to rest (spec/45_mac.md R220, R229). -/

namespace Sys2Proof.Machine

/-! ### Turns keep the further schedule -/

theorem exec_sched {i : Instr} {s t : State} (h : exec i s = .next t) : t.sched = s.sched := by
  rcases exec_cases i s with ⟨r, he⟩ | ⟨c, -, -, he⟩ | ⟨p, r, -, he⟩ | ⟨w, -, -, -, -, -, he⟩ | ⟨w, e, -, -, -, -, he⟩
    | ⟨a, -, he⟩ | ⟨-, he⟩ | ⟨a, r, -, he⟩ <;> rw [he] at h <;> cases h
  case inr.inl =>
    obtain ⟨events, hframe⟩ := deliver_frame c s
    rw [hframe]
  case inr.inr.inl => rw [inject_state]
  all_goals rfl

/-- What the steps of the MAC on its own leave alone. -/
structure KeepsScheduleAndMode (s t : State) : Prop where
  sched : t.sched = s.sched
  emuEn : t.emuEn = s.emuEn

theorem senseStep_keeps (s : State) : KeepsScheduleAndMode s (senseStep s) := by
  rcases senseStep_cases s with ⟨-, h⟩ | ⟨-, -, h⟩ | ⟨-, -, h⟩ <;> rw [h] <;> exact ⟨rfl, rfl⟩

theorem byteWritten_keeps (s : State) : KeepsScheduleAndMode s s.byteWritten := by
  rcases byteWritten_cases s with ⟨-, h⟩ | ⟨-, h⟩ <;> rw [h] <;> exact ⟨rfl, rfl⟩

theorem transmitStep_keeps {s t : State} (h : transmitStep s = .next t) : KeepsScheduleAndMode s t := by
  rcases transmitStep_cases s with ⟨-, ht⟩ | ⟨-, -, ht⟩ | ⟨b, -, -, ⟨-, ht⟩ | ⟨-, ht⟩⟩ <;> rw [ht] at h <;> cases h
  case inr.inr.inl =>
    obtain ⟨hsched, hemu⟩ := byteWritten_keeps (s.afterDraw.chanWrite [b])
    exact ⟨hsched, hemu⟩
  all_goals exact ⟨rfl, rfl⟩

theorem collidedStep_keeps (s : State) : KeepsScheduleAndMode s (collidedStep s) := by
  rw [collidedStep_eq]
  exact ⟨rfl, rfl⟩

theorem sequencerStep_keeps {s t : State} (h : sequencerStep s = .next t) : KeepsScheduleAndMode s t := by
  rcases sequencerStep_cases s with ⟨-, hs⟩ | ⟨-, hs⟩ | ⟨-, hs⟩ | ⟨-, -, hs⟩ | ⟨-, hs⟩ <;> rw [hs] at h
  case inr.inl => exact transmitStep_keeps h
  all_goals cases h
  case inl => exact senseStep_keeps s
  case inr.inr.inl => exact collidedStep_keeps s
  all_goals exact ⟨rfl, rfl⟩

theorem slotTick_keeps (s : State) : KeepsScheduleAndMode s (slotTick s) := by
  rcases slotTick_cases s with ⟨-, -, h⟩ | ⟨-, h⟩ <;> rw [h] <;> exact ⟨rfl, rfl⟩

theorem runTurn_sched {turn : Turn} {s t : State} (h : runTurn turn s = .next t) : t.sched = s.sched := by
  rcases runTurn_cases turn s with ⟨e, hr⟩ | ⟨p, i, -, -, hr⟩ | ⟨c, -, -, hr⟩ | ⟨-, hr⟩ | ⟨-, hr⟩ | ⟨-, hr⟩ <;>
    rw [hr] at h
  case inr.inl => exact exec_sched h
  case inr.inr.inl =>
    cases h
    obtain ⟨events, hframe⟩ := deliver_frame c s
    rw [hframe]
  case inr.inr.inr.inl => exact (sequencerStep_keeps h).sched
  case inr.inr.inr.inr.inl => cases h; exact (slotTick_keeps s).sched
  all_goals cases h; rfl

/-- A step takes the first turn off the schedule and writes nothing else in it. -/
theorem step_sched {s t : State} (h : step s = .next t) : t.sched = s.sched.tail := runTurn_sched (s := s.afterTurn) h

/-! ### A delivery draws nothing in bypass mode (R200) -/

theorem afterFrame_bypass {s : State} (he : s.emuEn = false) (w : Bytes) : afterFrame w s = s := by
  unfold afterFrame
  cases unwrapFrame w with
  | error e => rfl
  | ok f => simp only [receiveInjection, he, Bool.false_eq_true, if_false]

theorem Scan.run_draws_bypass (turns : Nat) {c : Scan} (he : c.state.emuEn = false) :
    (Scan.run turns c).state.draws = c.state.draws := by
  induction turns generalizing c with
  | zero => rfl
  | succ n ih =>
    unfold Scan.run
    split
    · rfl
    · have hturn : (c.turn (rxFind c.buf).1 (rxFind c.buf).2).state.emuEn = false := by
        rw [Scan.turn_eq, State.emit_emuEn, afterFrame_bypass he, he]
      rw [ih hturn, Scan.turn_eq, State.emit_draws, afterFrame_bypass he]

theorem deliver_draws_bypass {s : State} (he : s.emuEn = false) (chunk : Bytes) :
    (deliver chunk s).draws = s.draws := by
  rcases deliver_cases chunk s with ⟨-, h⟩ | ⟨-, scan, hscan, h⟩ <;> rw [h]
  · rw [State.emitDelivery_eq]
    rfl
  · have hdraws : scan.state.draws = s.draws := by
      rw [hscan, State.emitDelivery_eq, Scan.run_draws_bypass _ he]
    exact hdraws

/-! ### A quiet MAC stays quiet until the host sends -/

theorem sequencerStep_of_quiet {s : State} (hq : s.macState.busy = false) : sequencerStep s = .next s := by
  unfold sequencerStep
  rcases MacState.busy_eq_false_iff.1 hq with hm | hm | hm <;> rw [hm]

theorem slotTick_of_quiet {s : State} (hq : s.macState.busy = false) : slotTick s = s := by
  rcases slotTick_cases s with ⟨hm, -, -⟩ | ⟨-, h⟩
  · rw [hm] at hq; cases hq
  · exact h

/-- What a transition leaves of a quiet MAC and of the channel. -/
structure StaysQuiet (s t : State) : Prop where
  quiet : t.macState.busy = false
  txTrace : t.txTrace = s.txTrace
  bypass : s.emuEn = false → t.emuEn = false ∧ t.draws = s.draws

theorem StaysQuiet.refl {s : State} (hq : s.macState.busy = false) : StaysQuiet s s := ⟨hq, rfl, fun he => ⟨he, rfl⟩⟩

/-- No agent but the host wakes a quiet MAC or writes to the channel. -/
theorem runTurn_of_quiet {turn : Turn} {s : State} (hno : ∀ p, turn ≠ .host p) (hq : s.macState.busy = false) :
    ∃ t, runTurn turn s = .next t ∧ StaysQuiet s t := by
  rcases runTurn_cases turn s with ⟨e, hr⟩ | ⟨p, i, hp, -, -⟩ | ⟨c, -, -, hr⟩ | ⟨-, hr⟩ | ⟨-, hr⟩ | ⟨-, hr⟩
  case inl => exact ⟨_, hr, hq, rfl, fun he => ⟨he, rfl⟩⟩
  case inr.inl => exact absurd hp (hno p)
  case inr.inr.inl =>
    obtain ⟨events, hframe⟩ := deliver_frame c s
    refine ⟨_, hr, ?_, ?_, fun he => ⟨?_, deliver_draws_bypass he c⟩⟩ <;> rw [hframe] <;> assumption
  case inr.inr.inr.inl => exact ⟨s, hr.trans (sequencerStep_of_quiet hq), .refl hq⟩
  case inr.inr.inr.inr.inl => exact ⟨s, by rw [hr, slotTick_of_quiet hq], .refl hq⟩
  case inr.inr.inr.inr.inr => exact ⟨_, hr, rfl, rfl, fun _ => ⟨rfl, rfl⟩⟩

/-- No packet of a host is scheduled. -/
def State.NoHostTurn (s : State) : Prop := ∀ p, Turn.host p ∉ s.sched

theorem State.NoHostTurn.nextTurn {s : State} (h : s.NoHostTurn) (p : Bytes) : s.nextTurn ≠ .host p := by
  intro hnext
  unfold State.nextTurn at hnext
  cases hs : s.sched with
  | nil =>
    rw [hs] at hnext
    cases he : s.sequencerEnabled <;> simp [he] at hnext
  | cons turn rest =>
    rw [hs] at hnext
    obtain rfl : turn = .host p := hnext
    exact h p (hs ▸ List.mem_cons_self)

theorem State.NoHostTurn.of_sched {s t : State} (h : s.NoHostTurn) (ht : t.sched = s.sched) : t.NoHostTurn := by
  unfold State.NoHostTurn
  rw [ht]
  exact h

theorem State.NoHostTurn.step {s t : State} (h : s.NoHostTurn) (hs : step s = .next t) : t.NoHostTurn := by
  intro p hp
  rw [step_sched hs] at hp
  exact h p (List.mem_of_mem_tail hp)

theorem step_of_quiet {s : State} (hno : s.NoHostTurn) (hq : s.macState.busy = false) :
    ∃ t, step s = .next t ∧ StaysQuiet s t := by
  obtain ⟨t, ht, hquiet, htx, hbypass⟩ := runTurn_of_quiet (s := s.afterTurn) hno.nextTurn hq
  exact ⟨t, ht, hquiet, htx, hbypass⟩

/-- With nothing scheduled a quiet HSB does nothing at all (R220, R227). -/
theorem step_unscheduled_quiet {s : State} (hs : s.sched = []) (hq : s.macState.busy = false) : step s = .next s := by
  rw [step_unscheduled hs, sequencerStep_of_quiet hq, slotTick_of_quiet hq, ite_self]

/-! ### The MAC left to itself comes to rest (R229) -/

/-- A bound on the transitions that the MAC has still to make on its own, at most 1171 for each attempt left: in each
state of the MAC, from the attempt `a`, the index `i` and the countdown `c`. -/
def workLeft (a i c : Nat) : MacState → Nat
  | .idle => 0
  | .sense => (16 - a) * 1171 + 1170
  | .transmit => (16 - a) * 1171 + 1026 + (138 - i)
  | .success => 0
  | .collided => (16 - a) * 1171 + 1025
  | .backoff => (16 - a) * 1171 + 1 + c
  | .giveUp => 0

def State.macWork (s : State) : Nat := workLeft s.attempt.toNat s.txIdx.toNat s.backoffCnt.toNat s.macState

theorem macWork_of {s : State} {m : MacState} (hm : s.macState = m) :
    s.macWork = workLeft s.attempt.toNat s.txIdx.toNat s.backoffCnt.toNat m := by rw [State.macWork, hm]

/-- A transition of the MAC on its own brings it nearer to rest. -/
structure MacAdvances (s t : State) : Prop where
  awake : t.macState ≠ .idle
  work : t.macWork < s.macWork

theorem backoff_toNat_le_1023 (s : State) (a : Nat) : (BitVec.ofNat 10 (s.drawValue (bmax a))).toNat ≤ 1023 :=
  (backoff_toNat_le s a).trans (bmax_le a)

theorem senseStep_advances {s : State} (hm : s.macState = .sense) : MacAdvances s (senseStep s) := by
  have hwork := macWork_of hm
  simp only [workLeft] at hwork
  rcases senseStep_cases s with ⟨-, hs⟩ | ⟨-, -, hs⟩ | ⟨-, -, hs⟩ <;> rw [hs] <;> refine ⟨nofun, ?_⟩ <;> rw [hwork]
  case inl => exact Nat.lt_of_lt_of_le (Nat.succ_pos 1169) (Nat.le_add_left _ _)
  case inr.inl =>
    have hc := backoff_toNat_le_1023 s.afterDraw s.afterDraw.attempt.toNat
    have hafter : (s.afterDraw.enterBackoff.emit (.mediumBusy s.attempt)).macWork
        = (16 - s.attempt.toNat) * 1171 + 1
          + (BitVec.ofNat 10 (s.afterDraw.drawValue (bmax s.attempt.toNat))).toNat := rfl
    omega
  case inr.inr =>
    have hafter : State.macWork { s.afterDraw with txIdx := 0, macState := .transmit }
        = (16 - s.attempt.toNat) * 1171 + 1026 + 138 := rfl
    omega

theorem collide_advances {s : State} (hm : s.macState = .transmit) (cause : CollisionCause) :
    MacAdvances s (s.collide cause) := by
  have hwork := macWork_of hm
  have hafter : (s.collide cause).macWork = (16 - s.attempt.toNat) * 1171 + 1025 := rfl
  simp only [workLeft] at hwork
  exact ⟨nofun, by omega⟩

theorem byteWritten_advances {s : State} (h : Inv s) (hm : s.macState = .transmit) : MacAdvances s s.byteWritten := by
  have hwork := macWork_of hm
  have hin := h.txIdxTransmit hm
  have hbound := h.txfBound
  have hnext : (s.txIdx + 1).toNat = s.txIdx.toNat + 1 := txIdx_succ_toNat (List.getElem?_eq_getElem hin) hbound
  simp only [workLeft] at hwork
  rcases byteWritten_cases s with ⟨-, hs⟩ | ⟨-, hs⟩ <;> rw [hs]
  case inl =>
    have hafter : (State.emit { s with txIdx := s.txIdx + 1, macState := .success } (.txDone true)).macWork = 0 := rfl
    exact ⟨nofun, by omega⟩
  case inr =>
    have hafter : State.macWork { s with txIdx := s.txIdx + 1 }
        = (16 - s.attempt.toNat) * 1171 + 1026 + (138 - (s.txIdx + 1).toNat) :=
      macWork_of (s := { s with txIdx := s.txIdx + 1 }) hm
    exact ⟨by rw [hm]; exact nofun, by omega⟩

theorem transmitStep_advances {s t : State} (h : Inv s) (hm : s.macState = .transmit) (hs : transmitStep s = .next t) :
    MacAdvances s t := by
  rcases transmitStep_cases s with ⟨-, ht⟩ | ⟨-, -, ht⟩ | ⟨b, -, -, ⟨-, ht⟩ | ⟨-, ht⟩⟩ <;> rw [ht] at hs <;> cases hs
  case inl => exact ⟨nofun, (collide_advances (s := s.afterDraw) hm .trial).work⟩
  case inr.inr.inl =>
    obtain ⟨hawake, hwork⟩ := byteWritten_advances (h.afterDraw.chanWrite [b]) hm
    exact ⟨hawake, hwork⟩
  case inr.inr.inr => exact ⟨nofun, (collide_advances (s := s.afterDraw.chanWrite [b]) hm .write).work⟩

theorem collidedStep_advances {s : State} (hm : s.macState = .collided) : MacAdvances s (collidedStep s) := by
  have hwork := macWork_of hm
  have hc := backoff_toNat_le_1023 s.afterDraw s.attempt.toNat
  have hafter : (collidedStep s).macWork = (16 - s.attempt.toNat) * 1171 + 1
      + (BitVec.ofNat 10 (s.afterDraw.drawValue (bmax s.attempt.toNat))).toNat := by rw [collidedStep_eq]; rfl
  simp only [workLeft] at hwork
  refine ⟨?_, by omega⟩
  rw [collidedStep_eq]
  exact nofun

theorem expireStep_advances {s : State} (h : Inv s) (hm : s.macState = .backoff) : MacAdvances s (expireStep s) := by
  have hwork := macWork_of hm
  have hlt := (h.mac hm).attempt_lt
  have hafter : (expireStep s).macWork = (16 - (s.attempt + 1).toNat) * 1171 + 1170 := rfl
  have hnext := attempt_succ_toNat hlt
  simp only [workLeft] at hwork
  exact ⟨nofun, by omega⟩

theorem slotTick_advances {s : State} (hm : s.macState = .backoff) (hc : s.backoffCnt ≠ 0) :
    MacAdvances s (slotTick s) := by
  have hwork := macWork_of hm
  have hpred := backoffCnt_pred_toNat hc
  have hpos : s.backoffCnt.toNat ≠ 0 := fun hz => hc (BitVec.eq_of_toNat_eq hz)
  rcases slotTick_cases s with ⟨-, -, hs⟩ | ⟨hno, -⟩
  · have hafter : (slotTick s).macWork = (16 - s.attempt.toNat) * 1171 + 1 + (s.backoffCnt - 1).toNat := by
      rw [hs]; exact macWork_of (s := { s with backoffCnt := s.backoffCnt - 1 }) hm
    simp only [workLeft] at hwork
    refine ⟨?_, by omega⟩
    rw [hs, hm]
    exact nofun
  · exact absurd ⟨hm, hc⟩ hno

theorem sequencerStep_advances {s : State} (h : Inv s) (he : s.sequencerEnabled = true) :
    ∃ t, sequencerStep s = .next t ∧ MacAdvances s t := by
  rcases sequencerStep_cases s with ⟨hm, hs⟩ | ⟨hm, hs⟩ | ⟨hm, hs⟩ | ⟨hm, -, hs⟩ | ⟨hno, -⟩
  · exact ⟨_, hs, senseStep_advances hm⟩
  · obtain ⟨t, ht⟩ := transmitStep_answers (h.txIdxTransmit hm)
    exact ⟨t, hs.trans ht, transmitStep_advances h hm ht⟩
  · exact ⟨_, hs, collidedStep_advances hm⟩
  · exact ⟨_, hs, expireStep_advances h hm⟩
  · rw [he] at hno; cases hno

/-- R220: a busy MAC whose sequencer is not enabled counts slots. -/
theorem countdown_of_busy {s : State} (hb : s.macState.busy = true) (he : s.sequencerEnabled = false) :
    s.macState = .backoff ∧ s.backoffCnt ≠ 0 := by
  unfold State.sequencerEnabled at he
  rcases MacState.busy_eq_true_iff.1 hb with hm | hm | hm | hm <;> rw [hm] at he
  case inr.inr.inr => exact ⟨hm, beq_eq_false_iff_ne.1 he⟩
  all_goals cases he

/-- R229: with nothing scheduled every transition of a busy HSB brings the MAC nearer to rest. -/
theorem step_advances {s : State} (h : Inv s) (hs : s.sched = []) (hb : s.macState.busy = true) :
    ∃ t, step s = .next t ∧ KeepsScheduleAndMode s t ∧ MacAdvances s t := by
  rw [step_unscheduled hs]
  cases he : s.sequencerEnabled with
  | true =>
    obtain ⟨t, ht, hadv⟩ := sequencerStep_advances h he
    exact ⟨t, ht, sequencerStep_keeps ht, hadv⟩
  | false =>
    obtain ⟨hm, hc⟩ := countdown_of_busy hb he
    exact ⟨_, rfl, slotTick_keeps s, slotTick_advances hm hc⟩

end Sys2Proof.Machine
end

section
/-! PROOFS. The host's procedure `TX.MESSAGE` (spec/43_segment_reassemble.md R172) beside HSB (O60): the moves of the
procedure, the run of a message in bypass mode, and the wait for a quiet MAC. -/

namespace Sys2Proof

/-- The operations of `TX.MESSAGE` that compute a response from their operands alone. -/
def Opcode.computes : Opcode → Bool
  | .segSegment | .frmSerialize | .stfStuff => true
  | _ => false

end Sys2Proof

namespace Sys2Proof.Machine

/-! ### The moves of the procedure -/

/-- The procedure's packet goes ahead of the schedule and leaves it as it was. -/
theorem step_presented (packet : Bytes) (s : State) :
    step { s with sched := .host packet :: s.sched } = runPacket packet s := rfl

theorem HostRun.move_issue {i : Instr} {s t : State} (rest : List HostAction) (log : List Byte)
    (h : runPacket (encode i) s = .next t) :
    HostRun.move ⟨.issue i :: rest, log, s⟩ .procedure = .next ⟨rest, log, t⟩ := by
  simp only [HostRun.move, HostAction.packet, step_presented, h, HostAction.answered]

theorem HostRun.move_other {s t : State} (todo : List HostAction) (log : List Byte) (h : step s = .next t) :
    HostRun.move ⟨todo, log, s⟩ .other = .next ⟨todo, log, t⟩ := by
  cases todo <;> simp only [HostRun.move, h]

theorem HostRun.run_cons {h h' : HostRun} {m : HostMove} (hm : h.move m = .next h') (ms : List HostMove) :
    h.run (m :: ms) = h'.run ms := by
  simp only [HostRun.run, hm]

theorem exec_of_computes {i : Instr} (h : i.opcode.computes = true) (s : State) :
    ∃ r, exec i s = .next { s with response := r } := by
  rcases exec_cases i s with hr | ⟨_, rfl, -⟩ | ⟨_, _, rfl, -⟩ | ⟨_, rfl, -⟩ | ⟨_, _, rfl, -⟩ | ⟨_, rfl, -⟩ | ⟨rfl, -⟩
    | ⟨_, _, rfl, -⟩
  case inl => exact hr
  all_goals cases h

/-- The packet of such an operation writes the response alone, whatever its operands are: one too long for its length
field is refused, or is no other operation's packet. -/
theorem runPacket_of_computes {i : Instr} (h : i.opcode.computes = true) (s : State) :
    ∃ r, runPacket (encode i) s = .next { s with response := r } := by
  rcases runPacket_cases (encode i) s with ⟨e, -, hr⟩ | ⟨j, hd, hr⟩
  · exact ⟨_, hr⟩
  · obtain ⟨-, he⟩ := encode_of_decode hd
    have hop : j.opcode = i.opcode :=
      Option.some.inj ((Opcode.ofByte_of_encode he).symm.trans (Opcode.ofByte_code i.opcode))
    rw [hr]
    exact exec_of_computes (hop ▸ h) s

/-- R211: an accepted send in emulation mode. -/
theorem exec_macSend_emulation {w : Bytes} {s : State} (hr : stuffedInRange w = true) (hb : s.macState.busy = false)
    (he : s.emuEn = true) : exec (.macSend w) s = .next ((s.latch w).answer []) := by
  simp only [exec, execMacSend, hr, hb, he, State.guarded_true, Bool.false_eq_true, if_false, if_true]

theorem runPacket_macSend {w : Bytes} (hr : stuffedInRange w = true) (s : State) :
    runPacket (encode (.macSend w)) s = exec (.macSend w) s :=
  runPacket_encode (Instr.encodable_of_wellFormed (i := .macSend w) hr) s

/-! ### The frames of a message fit `MAC.SEND` -/

theorem stuffRest_length (b : Byte) (rest : Bytes) : (stuffRest (b :: rest)).length ≤ 2 * rest.length + 1 := by
  induction rest generalizing b with
  | nil => rfl
  | cons next rest ih =>
    have := ih next
    unfold stuffRest
    split <;> simp only [List.length_cons] <;> omega

/-- R122: stuffing at most doubles the interior. -/
theorem stuff_length {frame : Bytes} (h : 2 ≤ frame.length) :
    1 ≤ (stuff frame).length ∧ (stuff frame).length ≤ 2 + 2 * (frame.length - 2) := by
  match frame, h with
  | first :: b :: rest, _ =>
    have := stuffRest_length b rest
    simp only [stuff, List.length_cons]
    omega

theorem wireFrame_inRange {f : Frame} (hp : f.payload.length ≤ 64) (hf : f.fcs.length ≤ 2) :
    stuffedInRange (wireFrame f) = true := by
  have hlen := serialize_length f
  have hstuff := stuff_length (frame := serialize f) (by omega)
  exact stuffedInRange_iff.2 ⟨hstuff.1, by rw [wireFrame]; omega⟩

/-- R143: the FCS of a payload that fits a frame has at most two bytes. -/
theorem fecEncode_length_le {p : Bytes} (h : p.length ≤ 64) : (fecEncode p).length ≤ 2 := by
  have hk : controlBitCount p.length ≤ 10 := by
    refine Nat.le_of_not_lt fun hlt => ?_
    have := (controlBitCount_spec p.length).2 10 hlt
    omega
  rw [fecEncode_length, fcsLength]
  omega

theorem segmentPayload_length (message : Bytes) (i : Nat) : (segmentPayload message i).length ≤ 64 := by
  have hchunk : i * Config.maxPayload ≤ (i - 1) * Config.maxPayload + 64 := by
    simp only [Config.maxPayload]; omega
  rw [segmentPayload, slice_length]
  omega

theorem segment_inRange {message : Bytes} {f : Frame} (hf : f ∈ segment message) :
    stuffedInRange (wireFrame f) = true := by
  obtain ⟨j, -, rfl⟩ := List.mem_map.1 hf
  have hp := segmentPayload_length message (j + 1)
  exact wireFrame_inRange hp (fecEncode_length_le hp)

theorem txMessageActions_of_inRange {m : Bytes} (hm : m.length ≤ 16320) :
    txMessageActions m = .issue (.segSegment m) :: (segment m).flatMap txRecordActions := by
  rw [txMessageActions, if_pos (messageInRange_iff.2 hm)]

/-! ### The procedure sends to a quiet MAC only -/

/-- A list of actions in which a wait follows every send. -/
inductive Paced : List HostAction → Prop
  | done : Paced []
  | compute {i : Instr} {rest : List HostAction} : i.opcode.computes = true → Paced rest → Paced (.issue i :: rest)
  | send {w : Bytes} {rest : List HostAction} : Paced rest → Paced (.issue (.macSend w) :: .awaitQuiet :: rest)
  | wait {rest : List HostAction} : Paced rest → Paced (.awaitQuiet :: rest)

theorem paced_records (frames : List Frame) : Paced (frames.flatMap txRecordActions) := by
  induction frames with
  | nil => exact .done
  | cons f frames ih => exact .compute rfl (.compute rfl (.send ih))

theorem paced_txMessageActions (m : Bytes) : Paced (txMessageActions m) := by
  unfold txMessageActions
  split
  · exact .compute rfl (paced_records _)
  · exact .compute rfl .done

/-- What a run of a paced procedure keeps: the MAC is quiet unless the procedure is in a wait. -/
structure HostRun.Disciplined (h : HostRun) : Prop where
  paced : Paced h.todo
  noHostTurn : h.state.NoHostTurn
  quiet : h.state.macState.busy = false ∨ ∃ rest, h.todo = .awaitQuiet :: rest

namespace HostRun.Disciplined

theorem after_procedure {h h' : HostRun} (hd : h.Disciplined) (hm : h.move .procedure = .next h') : h'.Disciplined := by
  obtain ⟨todo, log, s⟩ := h
  obtain ⟨hpaced, hno, hquiet⟩ := hd
  cases hpaced with
  | done => cases hm; exact ⟨.done, hno, hquiet⟩
  | @compute i rest hi hrest =>
    have hq : s.macState.busy = false := hquiet.resolve_right fun ⟨_, hw⟩ => by cases hw
    obtain ⟨r, hr⟩ := runPacket_of_computes hi s
    rw [move_issue rest log hr] at hm
    cases hm
    exact ⟨hrest, hno, .inl hq⟩
  | @send w rest hrest =>
    rcases runPacket_cases (encode (.macSend w)) s with ⟨e, -, hr⟩ | ⟨i, -, hr⟩
    · rw [move_issue _ log hr] at hm
      cases hm
      exact ⟨.wait hrest, hno, .inr ⟨rest, rfl⟩⟩
    · obtain ⟨t, ht⟩ := exec_answers i s
      rw [move_issue _ log (hr.trans ht)] at hm
      cases hm
      exact ⟨.wait hrest, hno.of_sched (exec_sched ht), .inr ⟨rest, rfl⟩⟩
  | @wait rest hrest =>
    obtain ⟨r, hr⟩ := move_awaitQuiet rest log s
    rw [hr] at hm
    cases hb : s.macState.busy with
    | true => rw [hb] at hm; cases hm; exact ⟨.wait hrest, hno, .inr ⟨rest, rfl⟩⟩
    | false => rw [hb] at hm; cases hm; exact ⟨hrest, hno, .inl hb⟩

theorem after_other {h h' : HostRun} (hd : h.Disciplined) (hm : h.move .other = .next h') : h'.Disciplined := by
  rcases HostRun.move_cases hm with ⟨hc, -⟩ | ⟨_, _, _, hc, -⟩ | ⟨t, -, hs, rfl⟩
  · cases hc
  · cases hc
  · refine ⟨hd.paced, hd.noHostTurn.step hs, hd.quiet.imp_left fun hq => ?_⟩
    obtain ⟨u, hu, hstays⟩ := step_of_quiet hd.noHostTurn hq
    rw [hs] at hu
    cases hu
    exact hstays.quiet

theorem after_run {moves : List HostMove} {h h' : HostRun} (hd : h.Disciplined) (hr : h.run moves = .next h') :
    h'.Disciplined := by
  induction moves generalizing h with
  | nil => cases hr; exact hd
  | cons m ms ih =>
    rw [HostRun.run] at hr
    cases hm : h.move m with
    | next g =>
      rw [hm] at hr
      cases m with
      | procedure => exact ih (hd.after_procedure hm) hr
      | other => exact ih (hd.after_other hm) hr
    | fault r => rw [hm] at hr; cases hr
    | refused r => rw [hm] at hr; cases hr

theorem quiet_of_send {h : HostRun} {w : Bytes} {rest : List HostAction} (hd : h.Disciplined)
    (ht : h.todo = .issue (.macSend w) :: rest) : h.state.macState.busy = false :=
  hd.quiet.resolve_right fun ⟨_, hw⟩ => by rw [ht] at hw; cases hw

end HostRun.Disciplined

/-! ### A message in bypass mode -/

/-- The actions of `TX.MESSAGE` on frames that fit: nothing among them is refused by a quiet MAC. -/
inductive HostAction.Fits : HostAction → Prop
  | compute {i : Instr} : i.opcode.computes = true → Fits (.issue i)
  | send {w : Bytes} : stuffedInRange w = true → Fits (.issue (.macSend w))
  | wait : Fits .awaitQuiet

/-- The frames that an action puts on the channel in bypass mode. -/
def HostAction.sent : HostAction → List Bytes
  | .issue (.macSend w) => [w]
  | _ => []

theorem HostAction.sent_of_computes {i : Instr} (h : i.opcode.computes = true) : (HostAction.issue i).sent = [] := by
  cases i
  case macSend => cases h
  all_goals rfl

/-- One action of the procedure from `s` to `t` in bypass mode, the frames `sent` accepted by the channel. -/
structure Bypassed (sent : List Bytes) (s t : State) : Prop where
  macState : t.macState = s.macState
  emuEn : t.emuEn = s.emuEn
  sched : t.sched = s.sched
  draws : t.draws = s.draws.drop sent.length
  txTrace : t.txTrace = s.txTrace ++ sent.flatten
  evTrace : t.evTrace = s.evTrace ++ List.replicate sent.length (.txDone true)

theorem Bypassed.respond (s : State) (r : Bytes) : Bypassed [] s { s with response := r } :=
  ⟨rfl, rfl, rfl, rfl, (List.append_nil _).symm, (List.append_nil _).symm⟩

theorem exec_macSend_accepted {w : Bytes} {s : State} {rest : List Nat} (hr : stuffedInRange w = true)
    (hq : s.macState.busy = false) (he : s.emuEn = false) (hd : s.draws = 1 :: rest) :
    ∃ t, exec (.macSend w) s = .next t ∧ Bypassed [w] s t := by
  have hok : s.chanOk = true := State.drawBit_eq_true.2 (State.drawValue_of_draws hd le_rfl)
  refine ⟨_, exec_macSend_bypass hr hq he, ?_⟩
  rw [if_pos hok, State.sendDirect, State.chanWrite_of_ok hok, hok]
  exact ⟨rfl, rfl, rfl, List.drop_one.symm, by rw [List.flatten_singleton]; rfl, rfl⟩

/-- Every action is over in one move of the procedure. -/
theorem HostRun.move_bypass {a : HostAction} {s : State} {rest : List Nat} (ha : a.Fits)
    (hq : s.macState.busy = false) (he : s.emuEn = false) (hd : s.draws = List.replicate a.sent.length 1 ++ rest)
    (todo : List HostAction) (log : List Byte) :
    ∃ log' t, HostRun.move ⟨a :: todo, log, s⟩ .procedure = .next ⟨todo, log', t⟩ ∧ Bypassed a.sent s t := by
  cases ha with
  | compute hi =>
    obtain ⟨r, hr⟩ := runPacket_of_computes hi s
    exact ⟨log, _, move_issue todo log hr, HostAction.sent_of_computes hi ▸ .respond s r⟩
  | send hw =>
    obtain ⟨t, ht, hby⟩ := exec_macSend_accepted hw hq he hd
    exact ⟨log, t, move_issue todo log ((runPacket_macSend hw s).trans ht), hby⟩
  | wait =>
    obtain ⟨r, hr⟩ := move_awaitQuiet todo log s
    rw [hq] at hr
    exact ⟨_, _, hr, .respond s r⟩

/-- For every pattern with enough moves of the procedure the run comes to its end, whatever the other agents do. -/
theorem HostRun.run_bypass {rest : List Nat} (moves : List HostMove) {todo : List HostAction} (log : List Byte)
    {s : State} (hfits : ∀ a ∈ todo, a.Fits) (hq : s.macState.busy = false) (he : s.emuEn = false)
    (hd : s.draws = List.replicate (todo.flatMap HostAction.sent).length 1 ++ rest)
    (hcount : todo.length ≤ moves.count .procedure) (hother : s.NoHostTurn ∨ .other ∉ moves) :
    ∃ h : HostRun, HostRun.run moves ⟨todo, log, s⟩ = .next h ∧ h.todo = [] ∧ h.state.draws = rest
      ∧ h.state.txTrace = s.txTrace ++ (todo.flatMap HostAction.sent).flatten
      ∧ (s.sched = [] ∨ .other ∉ moves → h.state.evTrace
          = s.evTrace ++ List.replicate (todo.flatMap HostAction.sent).length (.txDone true)) := by
  induction moves generalizing todo log s with
  | nil =>
    obtain rfl := List.eq_nil_of_length_eq_zero (Nat.le_zero.1 hcount)
    exact ⟨_, rfl, rfl, hd, (List.append_nil _).symm, fun _ => (List.append_nil _).symm⟩
  | cons m ms ih =>
    have hother' : ∀ t : State, (s.NoHostTurn → t.NoHostTurn) → t.NoHostTurn ∨ .other ∉ ms := fun t ht =>
      hother.imp ht (mt (List.mem_cons_of_mem m))
    cases m with
    | other =>
      have hno : s.NoHostTurn := hother.resolve_right (not_not_intro List.mem_cons_self)
      obtain ⟨t, ht, hstays⟩ := step_of_quiet hno hq
      obtain ⟨he', hd'⟩ := hstays.bypass he
      obtain ⟨h, hrun, htodo, hdraws, htx, hev⟩ :=
        ih log hfits hstays.quiet he' (hd'.trans hd) (by simpa using hcount) (.inl (hno.step ht))
      refine ⟨h, (run_cons (move_other todo log ht) ms).trans hrun, htodo, hdraws, by rw [htx, hstays.txTrace], ?_⟩
      rintro (hs | hnone)
      · rw [step_unscheduled_quiet hs hq] at ht
        cases ht
        exact hev (.inl hs)
      · exact absurd List.mem_cons_self hnone
    | procedure =>
      cases todo with
      | nil =>
        obtain ⟨h, hrun, htodo, hdraws, htx, hev⟩ := ih log hfits hq he hd (Nat.zero_le _) (hother' s id)
        exact ⟨h, (run_cons rfl ms).trans hrun, htodo, hdraws, htx,
          fun hc => hev (hc.imp_right (mt (List.mem_cons_of_mem _)))⟩
      | cons a todo =>
        obtain ⟨hfit, hfits⟩ := List.forall_mem_cons.1 hfits
        rw [List.flatMap_cons, List.length_append, ← List.replicate_append_replicate, List.append_assoc] at hd
        obtain ⟨log', t, hmove, hby⟩ := move_bypass hfit hq he hd todo log
        have hd' : t.draws = List.replicate (todo.flatMap HostAction.sent).length 1 ++ rest := by
          rw [hby.draws, hd, List.drop_left' List.length_replicate]
        have hcount' : todo.length ≤ ms.count .procedure := by simpa using hcount
        obtain ⟨h, hrun, htodo, hdraws, htx, hev⟩ := ih log' hfits (hby.macState ▸ hq) (hby.emuEn ▸ he) hd' hcount'
          (hother' t fun hno => hno.of_sched hby.sched)
        refine ⟨h, (run_cons hmove ms).trans hrun, htodo, hdraws, ?_, fun hc => ?_⟩
        · rw [htx, hby.txTrace, List.flatMap_cons, List.flatten_append, List.append_assoc]
        · rw [hev (hc.imp (hby.sched.trans ·) (mt (List.mem_cons_of_mem _))), hby.evTrace, List.flatMap_cons,
            List.length_append, List.append_assoc, List.replicate_append_replicate]

theorem fits_txMessageActions {m : Bytes} (hm : m.length ≤ 16320) {a : HostAction} (ha : a ∈ txMessageActions m) :
    a.Fits := by
  rw [txMessageActions_of_inRange hm, List.mem_cons, List.mem_flatMap] at ha
  rcases ha with rfl | ⟨f, hf, ha⟩
  · exact .compute rfl
  · simp only [txRecordActions, List.mem_cons, List.not_mem_nil, or_false] at ha
    rcases ha with rfl | rfl | rfl | rfl
    · exact .compute rfl
    · exact .compute rfl
    · exact .send (segment_inRange hf)
    · exact .wait

theorem sent_records (frames : List Frame) :
    (frames.flatMap txRecordActions).flatMap HostAction.sent = frames.map wireFrame := by
  induction frames with
  | nil => rfl
  | cons f frames ih => rw [List.flatMap_cons, List.flatMap_append, ih]; rfl

theorem length_records (frames : List Frame) : (frames.flatMap txRecordActions).length = 4 * frames.length := by
  induction frames with
  | nil => rfl
  | cons f frames ih =>
    rw [List.flatMap_cons, List.length_append, ih, List.length_cons, Nat.mul_succ, Nat.add_comm]
    rfl

/-! ### A procedure with one transition of HSB before each of its moves -/

/-- HSB with its invariants and no turn scheduled. -/
structure State.Alone (s : State) : Prop where
  inv : Inv s
  sched : s.sched = []

/-- `t` comes after `s` in a run that nobody else takes part in: the mode stays, and the MAC is not reset. -/
structure State.GoesOn (s t : State) : Prop where
  alone : t.Alone
  emuEn : t.emuEn = s.emuEn
  awake : s.macState ≠ .idle → t.macState ≠ .idle

theorem State.GoesOn.trans {s t u : State} (hst : s.GoesOn t) (htu : t.GoesOn u) : s.GoesOn u :=
  ⟨htu.alone, htu.emuEn.trans hst.emuEn, fun h => htu.awake (hst.awake h)⟩

theorem State.Alone.goesOn {s : State} (h : s.Alone) : s.GoesOn s := ⟨h, rfl, id⟩

theorem State.Alone.respond {s : State} (h : s.Alone) (r : Bytes) : s.GoesOn { s with response := r } :=
  ⟨⟨h.inv.respond r, h.sched⟩, rfl, id⟩

theorem State.Alone.step {s : State} (h : s.Alone) :
    ∃ t, step s = .next t ∧ s.GoesOn t ∧ (t.macState.busy = true → t.macWork < s.macWork) := by
  cases hb : s.macState.busy with
  | false => exact ⟨s, step_unscheduled_quiet h.sched hb, h.goesOn, fun ht => by rw [hb] at ht; cases ht⟩
  | true =>
    obtain ⟨t, ht, hkeeps, hadv⟩ := step_advances h.inv h.sched hb
    have halone : t.Alone := ⟨invKeptByEveryTransition s t h.inv ht, hkeeps.sched.trans h.sched⟩
    exact ⟨t, ht, ⟨halone, hkeeps.emuEn, fun _ => hadv.awake⟩, fun _ => hadv.work⟩

/-- `n` rounds of one transition of HSB and one move of the procedure. -/
def rounds (n : Nat) : List HostMove := (List.replicate n [HostMove.other, HostMove.procedure]).flatten

theorem rounds_add (m n : Nat) : rounds (m + n) = rounds m ++ rounds n := by
  rw [rounds, ← List.replicate_append_replicate, List.flatten_append]
  rfl

/-- Some number of rounds takes the run from `h` to `h'`. -/
def HostRun.Reaches (h h' : HostRun) : Prop := ∃ n, h.run (rounds n) = .next h'

theorem HostRun.Reaches.trans {h g k : HostRun} (hhg : h.Reaches g) (hgk : g.Reaches k) : h.Reaches k := by
  obtain ⟨m, hm⟩ := hhg
  obtain ⟨n, hn⟩ := hgk
  exact ⟨m + n, by rw [rounds_add, run_append hm, hn]⟩

theorem HostRun.reaches_of_round {todo : List HostAction} {log : List Byte} {s t : State} {h : HostRun}
    (hs : step s = .next t) (hm : HostRun.move ⟨todo, log, t⟩ .procedure = .next h) : Reaches ⟨todo, log, s⟩ h :=
  ⟨1, (run_cons (move_other todo log hs) _).trans (run_cons hm _)⟩

/-- R172: every wait ends, with the code of a quiet MAC. -/
theorem HostRun.wait_ends (rest : List HostAction) (log : List Byte) {s : State} (h : s.Alone) :
    ∃ t, Reaches ⟨.awaitQuiet :: rest, log, s⟩ ⟨rest, log ++ [t.macState.code], t⟩ ∧ s.GoesOn t
      ∧ t.macState.busy = false := by
  induction hn : s.macWork using Nat.strong_induction_on generalizing s with
  | _ n ih =>
    obtain ⟨t, ht, hon, hwork⟩ := h.step
    obtain ⟨r, hr⟩ := move_awaitQuiet rest log t
    have hon' : s.GoesOn { t with response := r } := hon.trans (hon.alone.respond r)
    cases hb : t.macState.busy with
    | false =>
      rw [hb] at hr
      exact ⟨{ t with response := r }, reaches_of_round ht hr, hon', hb⟩
    | true =>
      rw [hb] at hr
      obtain ⟨u, hreach, hu, hquiet⟩ := ih _ (hn ▸ hwork hb) hon'.alone rfl
      exact ⟨u, (reaches_of_round ht hr).trans hreach, hon'.trans hu, hquiet⟩

theorem HostRun.compute_ends {i : Instr} (hi : i.opcode.computes = true) (rest : List HostAction) (log : List Byte)
    {s : State} (h : s.Alone) (hq : s.macState.busy = false) :
    ∃ t, Reaches ⟨.issue i :: rest, log, s⟩ ⟨rest, log, t⟩ ∧ s.GoesOn t ∧ t.macState.busy = false := by
  obtain ⟨r, hr⟩ := runPacket_of_computes hi s
  exact ⟨_, reaches_of_round (step_unscheduled_quiet h.sched hq) (move_issue rest log hr), h.respond r, hq⟩

/-- A send to a quiet MAC starts the machine in emulation mode and leaves it alone in bypass mode (R211, R216). -/
theorem HostRun.send_ends {w : Bytes} (hw : stuffedInRange w = true) (rest : List HostAction) (log : List Byte)
    {s : State} (h : s.Alone) (hq : s.macState.busy = false) :
    ∃ t, Reaches ⟨.issue (.macSend w) :: rest, log, s⟩ ⟨rest, log, t⟩ ∧ s.GoesOn t
      ∧ (s.emuEn = true → t.macState ≠ .idle) := by
  have hstep := step_unscheduled_quiet h.sched hq
  have hgo : ∀ {t : State}, exec (.macSend w) s = .next t →
      Reaches ⟨.issue (.macSend w) :: rest, log, s⟩ ⟨rest, log, t⟩ ∧ t.Alone := fun ht =>
    ⟨reaches_of_round hstep (move_issue rest log ((runPacket_macSend hw s).trans ht)), h.inv.exec ht,
      (exec_sched ht).trans h.sched⟩
  cases he : s.emuEn with
  | true =>
    obtain ⟨hreach, halone⟩ := hgo (exec_macSend_emulation hw hq he)
    exact ⟨_, hreach, ⟨halone, rfl, fun _ => nofun⟩, fun _ => nofun⟩
  | false =>
    have hexec : ∃ r, exec (.macSend w) s = .next { s.sendDirect w with response := r } := by
      rw [exec_macSend_bypass hw hq he]
      cases s.chanOk <;> exact ⟨_, rfl⟩
    obtain ⟨r, hexec⟩ := hexec
    obtain ⟨hreach, halone⟩ := hgo hexec
    exact ⟨_, hreach, ⟨halone, rfl, id⟩, nofun⟩

/-- R24: a quiet MAC that is not idle is in `SUCCESS` (3) or `GIVE_UP` (6). -/
theorem code_of_quiet {m : MacState} (hq : m.busy = false) (hne : m ≠ .idle) : m.code = 3 ∨ m.code = 6 := by
  rcases MacState.busy_eq_false_iff.1 hq with rfl | rfl | rfl
  · exact absurd rfl hne
  · exact .inl rfl
  · exact .inr rfl

/-- R172: one frame record, from a quiet MAC to a quiet MAC, with one wait logged. -/
theorem HostRun.record_ends {f : Frame} (hf : stuffedInRange (wireFrame f) = true) (rest : List HostAction)
    (log : List Byte) {s : State} (h : s.Alone) (hq : s.macState.busy = false) :
    ∃ t, Reaches ⟨txRecordActions f ++ rest, log, s⟩ ⟨rest, log ++ [t.macState.code], t⟩ ∧ s.GoesOn t
      ∧ t.macState.busy = false ∧ (s.emuEn = true → t.macState.code = 3 ∨ t.macState.code = 6) := by
  obtain ⟨s1, hserialize, h1, hq1⟩ := compute_ends (i := .frmSerialize f.total f.sequence f.payload f.fcs) rfl
    (.issue (.stfStuff (serialize f)) :: .issue (.macSend (wireFrame f)) :: .awaitQuiet :: rest) log h hq
  obtain ⟨s2, hstuff, h2, hq2⟩ := compute_ends (i := .stfStuff (serialize f)) rfl
    (.issue (.macSend (wireFrame f)) :: .awaitQuiet :: rest) log h1.alone hq1
  obtain ⟨s3, hsend, h3, hawake⟩ := send_ends hf (.awaitQuiet :: rest) log h2.alone hq2
  obtain ⟨t, hwait, ht, hqt⟩ := wait_ends rest log h3.alone
  refine ⟨t, hserialize.trans (hstuff.trans (hsend.trans hwait)), h1.trans (h2.trans (h3.trans ht)), hqt, fun he => ?_⟩
  have hmode : s2.emuEn = true := (h2.emuEn.trans h1.emuEn).trans he
  exact code_of_quiet hqt (ht.awake (hawake hmode))

/-- R172: the records of a message, one after another. -/
theorem HostRun.records_end {frames : List Frame} (hf : ∀ f ∈ frames, stuffedInRange (wireFrame f) = true)
    (log : List Byte) {s : State} (h : s.Alone) (hq : s.macState.busy = false) :
    ∃ codes t, Reaches ⟨frames.flatMap txRecordActions, log, s⟩ ⟨[], log ++ codes, t⟩ ∧ codes.length = frames.length
      ∧ (s.emuEn = true → ∀ code ∈ codes, code = 3 ∨ code = 6) := by
  induction frames generalizing log s with
  | nil => exact ⟨[], s, ⟨0, by rw [List.append_nil]; rfl⟩, rfl, fun _ => nofun⟩
  | cons f frames ih =>
    obtain ⟨hfit, hfits⟩ := List.forall_mem_cons.1 hf
    obtain ⟨t, hrecord, ht, hqt, hcode⟩ := record_ends hfit (frames.flatMap txRecordActions) log h hq
    obtain ⟨codes, u, hrest, hlen, hcodes⟩ := ih hfits (log ++ [t.macState.code]) ht.alone hqt
    rw [List.append_assoc] at hrest
    refine ⟨t.macState.code :: codes, u, hrecord.trans hrest, congrArg Nat.succ hlen, fun he => ?_⟩
    exact List.forall_mem_cons.2 ⟨hcode he, hcodes (ht.emuEn.trans he)⟩

/-! ### The statement -/

theorem txMessage_sendsWhenQuiet {m : Bytes} {s : State} {moves : List HostMove} {h : HostRun} {w : Bytes}
    {rest : List HostAction} (hq : s.macState.busy = false) (hno : s.NoHostTurn)
    (hr : (txMessage m s).run moves = .next h) (ht : h.todo = .issue (.macSend w) :: rest) :
    h.state.macState.busy = false :=
  have hstart : (txMessage m s).Disciplined := ⟨paced_txMessageActions m, hno, .inl hq⟩
  (hstart.after_run hr).quiet_of_send ht

theorem txMessage_ends {m : Bytes} {s : State} (hm : m.length ≤ 16320) (h : s.Alone) (hq : s.macState.busy = false) :
    ∃ log t, (txMessage m s).Reaches ⟨[], log, t⟩ ∧ log.length = (segment m).length
      ∧ (s.emuEn = true → ∀ code ∈ log, code = 3 ∨ code = 6) := by
  obtain ⟨s1, hsegment, h1, hq1⟩ :=
    HostRun.compute_ends (i := .segSegment m) rfl ((segment m).flatMap txRecordActions) [] h hq
  obtain ⟨codes, t, hrecords, hlen, hcodes⟩ := HostRun.records_end (fun _ => segment_inRange) [] h1.alone hq1
  refine ⟨codes, t, ?_, hlen, fun he => hcodes (h1.emuEn.trans he)⟩
  rw [txMessage, txMessageActions_of_inRange hm]
  exact hsegment.trans hrecords

theorem sent_txMessageActions {m : Bytes} (hm : m.length ≤ 16320) :
    (txMessageActions m).flatMap HostAction.sent = (segment m).map wireFrame := by
  rw [txMessageActions_of_inRange hm, List.flatMap_cons, sent_records]
  rfl

theorem length_txMessageActions {m : Bytes} (hm : m.length ≤ 16320) :
    (txMessageActions m).length = 1 + 4 * (segment m).length := by
  rw [txMessageActions_of_inRange hm, List.length_cons, length_records, Nat.add_comm]

/-- Settles O60: the discipline of a paced procedure (`txMessage_sendsWhenQuiet`), its end round by round
(`txMessage_ends`), and its run in bypass mode for every pattern of moves (`HostRun.run_bypass`). -/
theorem txMessageWaitsForQuiet : Obligations.TxMessageWaitsForQuiet := by
  refine ⟨fun m s moves h w rest hq hno hr ht => ?_, fun m s hm hinv hs hq => ?_,
    fun m s moves rest hm hq he hd hcount hother => ?_⟩
  · exact MacState.busy_eq_false_iff.1 (txMessage_sendsWhenQuiet (MacState.busy_eq_false_iff.2 hq) hno hr ht)
  · obtain ⟨log, t, ⟨n, hn⟩, hlen, hcodes⟩ := txMessage_ends hm ⟨hinv, hs⟩ (MacState.busy_eq_false_iff.2 hq)
    exact ⟨n, _, hn, rfl, hlen, hcodes⟩
  · have hsent := sent_txMessageActions hm
    have hlen : ((txMessageActions m).flatMap HostAction.sent).length = (segment m).length := by
      rw [hsent, List.length_map]
    obtain ⟨h, hrun, htodo, hdraws, htx, hev⟩ := HostRun.run_bypass moves [] (fun _ => fits_txMessageActions hm)
      (MacState.busy_eq_false_iff.2 hq) he (hlen ▸ hd) (length_txMessageActions hm ▸ hcount) hother
    rw [hlen] at hev
    refine ⟨h, hrun, htodo, hdraws, ?_, hev⟩
    rw [htx, hsent, ← List.flatMap_def]

end Sys2Proof.Machine
end

section
/-! PROOFS. The Frame Codec (spec/40_frame_codec.md): the serialized frame (O23), the failures of the deserializer (O25),
the round trip of a frame with its FCS (O26), and the structural check (O27). -/

namespace Sys2Proof.Machine

/-! ### `FRM.SERIALIZE` -/

/-- R11, R101: a result of fewer than 256 bytes has a length field whose high byte is 0. -/
theorem seqField_of_lt {b : Bytes} (h : b.length < 256) : seqField b = 0x00 :: BitVec.ofNat 8 b.length :: b := by
  rw [seqField, be16, Nat.div_eq_of_lt h]
  rfl

/-- R101: within the operand ranges the answer is the frame, whose length fits one byte. -/
theorem exec_frmSerialize_of_inRange {f : Frame} (hp : f.payload.length ≤ 64)
    (hf : 1 ≤ f.fcs.length ∧ f.fcs.length ≤ 2) (s : State) :
    exec (.frmSerialize f.total f.sequence f.payload f.fcs) s = .next
      { s with response := 0x00 :: 0x00 :: BitVec.ofNat 8 (serialize f).length :: serialize f } := by
  have hshort : (serialize f).length < 256 := by rw [serialize_length]; omega
  simp only [exec, execFrmSerialize, payloadInRange_iff.2 hp, serializeFcsInRange_iff.2 hf, Bool.and_self,
    State.guarded_true, seqField_of_lt hshort]
  rfl

/-- Settles O23: the answer of `exec_frmSerialize_of_inRange` within the ranges of R86, else the refusal of step 4. -/
theorem serializeConcatenatesFields : Obligations.SerializeConcatenatesFields := by
  intro total sequence p fcs s
  by_cases h : p.length ≤ 64 ∧ 1 ≤ fcs.length ∧ fcs.length ≤ 2
  · obtain ⟨hp, hf⟩ := h
    rw [if_pos ⟨hp, hf⟩, ← serialize_length ⟨total, sequence, p, fcs⟩]
    exact exec_frmSerialize_of_inRange (f := ⟨total, sequence, p, fcs⟩) hp hf s
  · have hw : (Instr.frmSerialize total sequence p fcs).wellFormed = false := by
      rw [← Bool.not_eq_true]
      simpa only [Instr.wellFormed, Bool.and_eq_true, decide_eq_true_eq, and_assoc] using h
    rw [if_neg h]
    exact exec_of_not_wellFormed hw s

/-! ### The failures of `FRM.DESERIALIZE` -/

theorem exec_frmDeserialize_of_error {b : Bytes} {e : Status} (hl : b.length ≤ 65535) (h : deserialize b = .error e)
    (s : State) : exec (.frmDeserialize b) s = .next (s.raise e) := by
  simp only [exec, execFrmDeserialize, anyLen16_iff.2 hl, State.guarded_true, h]

/-- R105: the length is tested first. -/
theorem deserialize_of_short {b : Bytes} (h : b.length < 5) : deserialize b = .error .errFrameShort := by
  rcases deserialize_cases b with ⟨-, hd⟩ | ⟨hlen, -⟩ | ⟨hlen, -⟩ | ⟨hlen, -⟩
  · exact hd
  all_goals omega

/-- R105: the flags are tested before the length of the payload. -/
theorem deserialize_of_flags {b : Bytes} (hlen : 5 ≤ b.length) (h : b.head? ≠ some 0x0B ∨ b.getLast? ≠ some 0x0C) :
    deserialize b = .error .errFrameFlags := by
  rcases deserialize_cases b with ⟨hshort, -⟩ | ⟨-, -, hd⟩ | ⟨-, hhead, hlast, -⟩ | ⟨-, -, hhead, hlast, -⟩
  · omega
  · exact hd
  all_goals exact absurd h (not_or.2 ⟨not_not.2 hhead, not_not.2 hlast⟩)

/-- R107: above 70 bytes the payload between the flags is too long. -/
theorem deserialize_of_oversize {b : Bytes} (hlen : 70 < b.length) (hhead : b.head? = some 0x0B)
    (hlast : b.getLast? = some 0x0C) : deserialize b = .error .errFrameOversize := by
  rcases deserialize_cases b with ⟨hshort, -⟩ | ⟨-, hflags, -⟩ | ⟨-, -, -, hd⟩ | ⟨-, hle, -⟩
  · omega
  · exact absurd hflags (not_or.2 ⟨not_not.2 hhead, not_not.2 hlast⟩)
  · exact hd
  · omega

/-- Settles O25: one failure lemma of the deserializer for each clause, with the flags read at the first and the last
index. -/
theorem deserializeFailsInOrder : Obligations.DeserializeFailsInOrder := by
  intro b s hl
  rw [← List.head?_eq_getElem?, ← List.getLast?_eq_getElem?]
  refine ⟨fun hshort => ?_, fun hlen hflags => ?_, fun hlen hhead hlast => ?_⟩
  · exact exec_frmDeserialize_of_error hl (deserialize_of_short hshort) s
  · exact exec_frmDeserialize_of_error hl (deserialize_of_flags hlen hflags) s
  · exact exec_frmDeserialize_of_error hl (deserialize_of_oversize hlen hhead hlast) s

/-! ### The round trip of a frame with its FCS -/

/-- `k(n)` is at most every exponent that R141 allows. -/
theorem controlBitCount_le {n k : Nat} (h : 8 * n + 1 ≤ 2 ^ k) : controlBitCount n ≤ k :=
  Nat.le_of_not_lt fun hlt => absurd ((controlBitCount_spec n).2 k hlt) (Nat.not_lt.2 h)

/-- `k(n)` is above every exponent too small for R141. -/
theorem lt_controlBitCount {n k : Nat} (h : 2 ^ k < 8 * n + 1) : k < controlBitCount n := by
  refine Nat.lt_of_not_le fun hle => ?_
  have hpow : 2 ^ controlBitCount n ≤ 2 ^ k := Nat.pow_le_pow_right Nat.zero_lt_two hle
  have hspec := (controlBitCount_spec n).1
  omega

/-- R72, R143: up to 15 payload bytes there are at most 7 control bits, so with the parity bit they fill one byte. -/
theorem fcsLength_of_le_15 {n : Nat} (h : n ≤ 15) : fcsLength n = 1 := by
  have hk : controlBitCount n ≤ 7 := controlBitCount_le (by omega)
  rw [fcsLength]
  omega

/-- R72, R143: from 16 payload bytes on there are 8 to 10 control bits, so with the parity bit they fill two bytes. -/
theorem fcsLength_of_16_le {n : Nat} (h : 16 ≤ n) (h64 : n ≤ 64) : fcsLength n = 2 := by
  have hk7 : 7 < controlBitCount n := lt_controlBitCount (by omega)
  have hk10 : controlBitCount n ≤ 10 := controlBitCount_le (by omega)
  rw [fcsLength]
  omega

/-- R108: the FCS of a payload has the length that the split rule expects, because `F(n)` grows to 2 where the frame
grows past 20 bytes. -/
theorem buildFrame_splits (total sequence : Byte) {p : Bytes} (h : p.length ≤ 64) :
    (buildFrame total sequence p).Splits := by
  have hfcs : (fecEncode p).length = fcsLength p.length := fecEncode_length p
  rcases Nat.lt_or_ge 15 p.length with hlong | hshort
  · exact .inr ⟨hfcs.trans (fcsLength_of_16_le hlong h), Nat.le_of_lt hlong, h⟩
  · exact .inl ⟨hfcs.trans (fcsLength_of_le_15 hshort), hshort⟩

/-- A frame that the split rule tells apart is within the operand ranges of `FRM.SERIALIZE`. -/
theorem Frame.Splits.inRange {f : Frame} (h : f.Splits) :
    f.payload.length ≤ 64 ∧ 1 ≤ f.fcs.length ∧ f.fcs.length ≤ 2 := by
  unfold Frame.Splits at h
  omega

/-- Settles O26: the frame is the serialized `buildFrame`; its FCS splits off again by `buildFrame_splits`. -/
theorem frameRoundTrip : Obligations.FrameRoundTrip := by
  intro total sequence p s h
  have hsplits : (buildFrame total sequence p).Splits := buildFrame_splits total sequence h
  obtain ⟨hp, hf⟩ := hsplits.inRange
  have hlen : (serialize (buildFrame total sequence p)).length ≤ 65535 := by rw [serialize_length]; omega
  exact ⟨_, exec_frmSerialize_of_inRange hp hf s,
    exec_frmDeserialize_of_ok hlen (deserialize_serialize hsplits) s⟩

/-! ### `FRM.CHECK` -/

theorem flagByte_eq_one_iff {b : Bool} : flagByte b = 1 ↔ b = true := by cases b <;> decide

theorem flagByte_cases (b : Bool) : flagByte b = 0 ∨ flagByte b = 1 := by cases b <;> decide

/-- A sequence of at least two bytes with given ends is these ends around what is between them. -/
theorem head_last_iff_exists_middle {b : Bytes} {first last : Byte} {n : Nat} :
    (n + 2 ≤ b.length ∧ b.head? = some first ∧ b.getLast? = some last)
      ↔ ∃ mid : Bytes, b = first :: (mid ++ [last]) ∧ n ≤ mid.length := by
  constructor
  · rintro ⟨hlen, hhead, hlast⟩
    obtain ⟨rest, rfl⟩ := List.head?_eq_some_iff.1 hhead
    have hne : rest ≠ [] := by rintro rfl; simp at hlen
    rw [List.getLast?_cons_of_ne_nil hne] at hlast
    obtain ⟨mid, rfl⟩ := List.getLast?_eq_some_iff.1 hlast
    refine ⟨mid, rfl, ?_⟩
    simp only [List.length_cons, List.length_append, List.length_nil] at hlen
    omega
  · rintro ⟨mid, rfl, hmid⟩
    refine ⟨?_, rfl, ?_⟩
    · simp only [List.length_cons, List.length_append, List.length_nil]
      omega
    · rw [← List.cons_append, List.getLast?_concat]

/-- Settles O27: the answer is the flag byte of `frmCheck`, whose three tests (`frmCheck_iff`) say that the sequence is
its two flags around at least three bytes. -/
theorem checkTestsLengthAndFlags : Obligations.CheckTestsLengthAndFlags := by
  intro b s hl
  have hexec : exec (.frmCheck b) s = .next (s.answer [flagByte (frmCheck b)]) := by
    simp only [exec, execFrmCheck, anyLen16_iff.2 hl, State.guarded_true]
  exact ⟨_, hexec, flagByte_cases _,
    flagByte_eq_one_iff.trans (frmCheck_iff.trans head_last_iff_exists_middle)⟩

end Sys2Proof.Machine
end

section
/-! PROOFS. The Byte Stuffer (spec/41_byte_stuffer.md): what `STF.STUFF` writes (O28), that `STF.UNSTUFF` undoes it
(O29), and how `STF.UNSTUFF` reads any sequence (O30). -/

namespace Sys2Proof.Machine

/-- A byte sequence is shorter than two bytes, or an interior between a first and a last byte. -/
theorem length_lt_two_or_exists_ends (b : Bytes) :
    b.length < 2 ∨ ∃ (first last : Byte) (interior : Bytes), b = first :: (interior ++ [last]) := by
  cases b with
  | nil => exact .inl (by decide)
  | cons first rest =>
    rcases List.eq_nil_or_concat rest with rfl | ⟨interior, last, rfl⟩
    · exact .inl (Nat.lt_succ_self 1)
    · exact .inr ⟨first, last, interior, by rw [List.concat_eq_append]⟩

/-! ### `STF.STUFF` -/

/-- R121: what one interior byte becomes, with `0x0B xor 0x50` and `0x7D xor 0x50` in figures. -/
def stuffedByte (v : Byte) : Bytes := if v = 0x0B then [0x7D, 0x5B] else if v = 0x7D then [0x7D, 0x2D] else [v]

theorem stuffRest_cons (v : Byte) {rest : Bytes} (h : rest ≠ []) :
    stuffRest (v :: rest) = stuffedByte v ++ stuffRest rest := by
  obtain ⟨next, rest, rfl⟩ := List.exists_cons_of_ne_nil h
  rw [stuffRest, stuffedByte]
  by_cases hstart : v = 0x0B
  · subst hstart; rfl
  by_cases hesc : v = 0x7D
  · subst hesc; rfl
  have hplain : escaped v = false := by
    rw [escaped, Bool.or_eq_false_iff]
    exact ⟨beq_false_of_ne hstart, beq_false_of_ne hesc⟩
  rw [if_neg hstart, if_neg hesc, hplain]
  rfl

theorem stuffRest_concat (interior : Bytes) (last : Byte) :
    stuffRest (interior ++ [last]) = interior.flatMap stuffedByte ++ [last] := by
  induction interior with
  | nil => rfl
  | cons v rest ih =>
    rw [List.cons_append, stuffRest_cons v (List.concat_ne_nil _ _), ih, List.flatMap_cons, List.append_assoc]

theorem stuff_ends (first last : Byte) (interior : Bytes) :
    stuff (first :: (interior ++ [last])) = first :: (interior.flatMap stuffedByte ++ [last]) :=
  congrArg (first :: ·) (stuffRest_concat interior last)

/-- R123. -/
theorem stuff_of_short {b : Bytes} (h : b.length < 2) : stuff b = b := by
  match b, h with
  | [], _ => rfl
  | [_], _ => rfl

/-- R122: the bound `STF_CAP`. -/
theorem stuff_length_le {b : Bytes} (h : b.length ≤ 70) : (stuff b).length ≤ 138 := by
  rcases Nat.lt_or_ge b.length 2 with hshort | hlong
  · rw [stuff_of_short hshort]; omega
  · have := (stuff_length hlong).2
    omega

theorem exec_stfStuff {b : Bytes} (h : b.length ≤ 70) (s : State) :
    exec (.stfStuff b) s =
      .next { s with response := 0x00 :: 0x00 :: BitVec.ofNat 8 (stuff b).length :: stuff b } := by
  have hshort : (stuff b).length < 256 := Nat.lt_of_le_of_lt (stuff_length_le h) (by decide)
  simp only [exec, execStfStuff, frameInRange_iff.2 h, State.guarded_true, seqField_of_lt hshort]
  rfl

/-- Settles O28: the answer of `exec_stfStuff`, with the stuffed sequence read off by `stuff_of_short` or `stuff_ends`;
above 70 bytes the operand test of R82 fails. -/
theorem stuffEscapesInterior : Obligations.StuffEscapesInterior := by
  intro s
  refine ⟨fun b hshort => ?_, fun b hlong => ?_, fun first last interior hlen => ?_⟩
  · have hexec := exec_stfStuff (b := b) (by omega) s
    rwa [stuff_of_short hshort] at hexec
  · exact exec_of_not_wellFormed (i := .stfStuff b) (decide_eq_false (Nat.not_le.2 hlong)) s
  · have hb : (first :: (interior ++ [last])).length ≤ 70 := by
      simp only [List.length_cons, List.length_append, List.length_nil]
      omega
    exact ⟨_, exec_stfStuff hb s, stuff_length_le hb, stuff_ends first last interior⟩

/-! ### `STF.UNSTUFF` reads the interior as `Unescapes` says -/

theorem unstuffRest_cons_of_ne {v : Byte} (h : v ≠ 0x7D) (rest : Bytes) :
    unstuffRest (v :: rest) = (unstuffRest rest).map fun out => v :: out := by
  match rest with
  | [] => rfl
  | [_] => exact if_neg h
  | _ :: _ :: _ => exact if_neg h

theorem unstuffRest_pair (v : Byte) {rest : Bytes} (h : rest ≠ []) :
    unstuffRest (0x7D :: v :: rest) = (unstuffRest rest).map fun out => (v ^^^ 0x50) :: out := by
  obtain ⟨after, rest, rfl⟩ := List.exists_cons_of_ne_nil h
  rfl

/-- The unstuffer takes the interior apart as the relation does, and keeps the last byte. -/
theorem unstuffRest_concat {interior : Bytes} {out : Option Bytes} (h : Unescapes interior out) (last : Byte) :
    unstuffRest (interior ++ [last]) = out.map fun o => o ++ [last] := by
  induction h with
  | done => rfl
  | unpaired => rfl
  | plain hv _ ih =>
    rw [List.cons_append, unstuffRest_cons_of_ne hv, ih, Option.map_map, Option.map_map]
    rfl
  | pair _ ih =>
    rw [List.cons_append, List.cons_append, unstuffRest_pair _ (List.concat_ne_nil _ _), ih,
      Option.map_map, Option.map_map]
    rfl

/-- R124, R125: every interior is read, with a result or up to an unpaired escape. -/
theorem exists_unescapes (interior : Bytes) : ∃ out, Unescapes interior out := by
  match interior with
  | [] => exact ⟨_, .done⟩
  | [v] =>
    by_cases hv : v = 0x7D
    · subst hv; exact ⟨_, .unpaired⟩
    · exact ⟨_, .plain hv .done⟩
  | v :: next :: rest =>
    by_cases hv : v = 0x7D
    · obtain ⟨out, h⟩ := exists_unescapes rest
      subst hv; exact ⟨_, .pair h⟩
    · obtain ⟨out, h⟩ := exists_unescapes (next :: rest)
      exact ⟨_, .plain hv h⟩

theorem unstuff_ends {interior out : Bytes} (h : Unescapes interior (some out)) (first last : Byte) :
    unstuff (first :: (interior ++ [last])) = .ok (first :: (out ++ [last])) := by
  rw [unstuff, unstuffRest_concat h last]
  rfl

theorem unstuff_dangling {interior : Bytes} (h : Unescapes interior none) (first last : Byte) :
    unstuff (first :: (interior ++ [last])) = .error .errDanglingEscape := by
  rw [unstuff, unstuffRest_concat h last]
  rfl

/-- R123. -/
theorem unstuff_of_short {b : Bytes} (h : b.length < 2) : unstuff b = .ok b := by
  match b, h with
  | [], _ => rfl
  | [_], _ => rfl

/-- The status `OK`, the length field and the bytes. -/
theorem exec_stfUnstuff_of_ok {b frame : Bytes} (hl : b.length ≤ 65535) (h : unstuff b = .ok frame) (s : State) :
    exec (.stfUnstuff b) s = .next { s with response := 0x00 :: seqField frame } := by
  simp only [exec, execStfUnstuff, anyLen16_iff.2 hl, State.guarded_true, h]
  rfl

theorem exec_stfUnstuff_of_error {b : Bytes} {e : Status} (hl : b.length ≤ 65535) (h : unstuff b = .error e)
    (s : State) : exec (.stfUnstuff b) s = .next (s.raise e) := by
  simp only [exec, execStfUnstuff, anyLen16_iff.2 hl, State.guarded_true, h]

/-- Settles O30: `Unescapes` reads the interior (`exists_unescapes`), and `STF.UNSTUFF` answers what it reads. -/
theorem unstuffPairsAndDanglingEscape : Obligations.UnstuffPairsAndDanglingEscape := by
  intro s
  refine ⟨fun b hshort => ?_, fun first last interior hlen => ?_⟩
  · exact exec_stfUnstuff_of_ok (by omega) (unstuff_of_short hshort) s
  have hl : (first :: (interior ++ [last])).length ≤ 65535 := by
    simp only [List.length_cons, List.length_append, List.length_nil]
    omega
  obtain ⟨out, h⟩ := exists_unescapes interior
  cases out with
  | none => exact .inl ⟨h, exec_stfUnstuff_of_error hl (unstuff_dangling h first last) s⟩
  | some out =>
    have hframe : (first :: (out ++ [last])).length = out.length + 2 := by
      rw [List.length_cons, List.length_append, List.length_singleton]
    refine .inr ⟨out, h, ?_⟩
    rw [exec_stfUnstuff_of_ok hl (unstuff_ends h first last) s, seqField, hframe]
    rfl

/-! ### Unstuffing undoes stuffing -/

/-- What one interior byte became is read as that byte, and the rest after it: the escapes `7D 5B` and `7D 2D` are
pairs, and a byte kept verbatim is no escape byte. -/
theorem Unescapes.stuffedByte_append (v : Byte) {rest out : Bytes} (h : Unescapes rest (some out)) :
    Unescapes (stuffedByte v ++ rest) (some (v :: out)) := by
  unfold stuffedByte
  by_cases hstart : v = 0x0B
  · subst hstart; exact .pair (v := 0x5B) h
  by_cases hesc : v = 0x7D
  · subst hesc; exact .pair (v := 0x2D) h
  rw [if_neg hstart, if_neg hesc]
  exact .plain hesc h

theorem Unescapes.flatMap_stuffedByte (interior : Bytes) :
    Unescapes (interior.flatMap stuffedByte) (some interior) := by
  induction interior with
  | nil => exact .done
  | cons v rest ih => exact .stuffedByte_append v ih

/-- R126, at every length. -/
theorem unstuff_stuff (b : Bytes) : unstuff (stuff b) = .ok b := by
  rcases length_lt_two_or_exists_ends b with hshort | ⟨first, last, interior, rfl⟩
  · rw [stuff_of_short hshort, unstuff_of_short hshort]
  · rw [stuff_ends, unstuff_ends (.flatMap_stuffedByte interior)]

/-- Settles O29: `unstuff_stuff`, both sequences being short enough for a one-byte length. -/
theorem unstuffInvertsStuff : Obligations.UnstuffInvertsStuff := by
  intro b s h
  have hw : (stuff b).length ≤ 65535 := Nat.le_trans (stuff_length_le h) (by decide)
  have hunstuff := exec_stfUnstuff_of_ok hw (unstuff_stuff b) s
  rw [seqField_of_lt (Nat.lt_of_le_of_lt h (by decide))] at hunstuff
  exact ⟨_, exec_stfStuff h s, hunstuff⟩

end Sys2Proof.Machine
end

section
/-! PROOFS. The FEC unit on damaged words (spec/42_hamming_fec.md): inverting one bit of the payload or of the FCS adds
that bit's position to the syndrome and turns the overall parity, so each statement about errors is read off
from the undamaged word, whose syndrome and mismatch are 0. -/

namespace Sys2Proof.Machine

/-! ### Inverting a bit of a byte sequence -/

@[simp] theorem invertBit_length (b : Bytes) (x : Nat) : (invertBit b x).length = b.length := List.length_modify ..

theorem invertBit_invertBit (b : Bytes) (x : Nat) : invertBit (invertBit b x) x = b := by
  have hself (mask : Byte) : (fun v => v ^^^ mask) ∘ (fun v => v ^^^ mask) = id := by
    funext v
    simp only [Function.comp_apply, BitVec.xor_assoc, BitVec.xor_self, BitVec.xor_zero, id]
  rw [invertBit, invertBit, List.modify_modify_eq, hself, List.modify_id]

/-- The mask of place `t` has a 1 at that place only, places counted MSB-first. -/
theorem mask_getLsbD : ∀ t < 8, ∀ u < 8, ((0x80 : Byte) >>> t).getLsbD (7 - u) = decide (u = t) := by decide

/-- The inversion of bit `x`, if there is one, changes that bit and no other. -/
theorem wireBit_invertBit (b : Bytes) (x y : Nat) :
    wireBit (invertBit b x) y = (wireBit b y ^^ decide (x < 8 * b.length ∧ y = x)) := by
  unfold wireBit invertBit
  rw [List.getD_eq_getElem?_getD, List.getD_eq_getElem?_getD, List.getElem?_modify]
  rcases Nat.lt_or_ge (y / 8) b.length with hy | hy
  · rw [List.getElem?_eq_getElem hy]
    by_cases hbyte : x / 8 = y / 8
    · have hplace : decide (y % 8 = x % 8) = decide (x < 8 * b.length ∧ y = x) := decide_eq_decide.2 (by omega)
      simp only [hbyte, if_true, Option.map_eq_map, Option.map_some, Option.getD_some, BitVec.getLsbD_xor]
      rw [mask_getLsbD _ (Nat.mod_lt _ (by decide)) _ (Nat.mod_lt _ (by decide)), hplace]
    · have hother : ¬ (x < 8 * b.length ∧ y = x) := fun h => hbyte (by rw [h.2])
      simp only [hbyte, hother, if_false, Option.map_eq_map, Option.map_some, decide_false, Bool.xor_false]
  · have hout : ¬ (x < 8 * b.length ∧ y = x) := by omega
    rw [List.getElem?_eq_none hy, decide_eq_false hout, Bool.xor_false]
    rfl

/-- A byte sequence is its length and its bits. -/
theorem eq_of_wireBit_eq {a b : Bytes} (hlen : a.length = b.length) (h : ∀ x, wireBit a x = wireBit b x) : a = b := by
  refine List.ext_getElem hlen fun j ha hb => BitVec.eq_of_getLsbD_eq fun t ht => ?_
  have hdiv : (8 * j + (7 - t)) / 8 = j := by omega
  have hmod : 7 - (8 * j + (7 - t)) % 8 = t := by omega
  have hbit := h (8 * j + (7 - t))
  unfold wireBit at hbit
  rwa [hdiv, hmod, List.getD_eq_getElem _ _ ha, List.getD_eq_getElem _ _ hb] at hbit

theorem invertBit_ne_self {b : Bytes} {x : Nat} (h : x < 8 * b.length) : invertBit b x ≠ b := fun heq => by
  have hbit := wireBit_invertBit b x x
  rw [heq, decide_eq_true ⟨h, rfl⟩] at hbit
  cases hb : wireBit b x <;> simp [hb] at hbit

theorem dataBits_invertBit (p : Bytes) (j : Nat) : dataBits (invertBit p j) = (dataBits p).modify j (!·) := by
  refine List.ext_getElem (by simp [dataBits_length]) fun y hy hy' => ?_
  have hlen : y < 8 * p.length := by rw [List.length_modify, dataBits_length] at hy'; exact hy'
  have hbit : (dataBits (invertBit p j)).getD y false
      = ((dataBits p).getD y false ^^ decide (j < 8 * p.length ∧ y = j)) := by
    rw [dataBits_getD, dataBits_getD]
    exact wireBit_invertBit p j y
  rw [List.getD_eq_getElem _ _ hy, List.getD_eq_getElem _ _ (by rwa [dataBits_length])] at hbit
  rw [hbit, List.getElem_modify]
  by_cases hj : j = y
  · subst hj; simp [hlen]
  · simp [hj, Ne.symm hj]

/-! ### Parities of a sequence with one bit inverted -/

/-- Inverting one bit turns the XOR of the selected bits exactly when that bit is there and selected. -/
theorem xorWhere_modify_not (selected : Nat → Bool) (pos : Nat) (bits : List Bool) (x : Nat) :
    xorWhere selected pos (bits.modify x (!·))
      = (xorWhere selected pos bits ^^ (decide (x < bits.length) && selected (pos + x))) := by
  induction bits generalizing pos x with
  | nil => simp [xorWhere]
  | cons d ds ih =>
    cases x with
    | zero =>
      rw [List.modify_zero_cons, xorWhere, xorWhere]
      cases selected pos <;> cases d <;> simp
    | succ x =>
      have hpos : pos + 1 + x = pos + (x + 1) := by omega
      simp only [List.modify_succ_cons, xorWhere, ih, hpos, List.length_cons, Nat.add_lt_add_iff_right, Bool.xor_assoc]

theorem xorAll_eq_xorWhere (pos : Nat) (bits : List Bool) : xorAll bits = xorWhere (fun _ => true) pos bits := by
  induction bits generalizing pos with
  | nil => rfl
  | cons b bits ih => rw [xorWhere, ← ih, Bool.true_and]; rfl

theorem xorAll_modify_not (bits : List Bool) (x : Nat) :
    xorAll (bits.modify x (!·)) = (xorAll bits ^^ decide (x < bits.length)) := by
  rw [xorAll_eq_xorWhere 0, xorWhere_modify_not, ← xorAll_eq_xorWhere, Bool.and_true]

theorem xorAll_append_singleton (bits : List Bool) (b : Bool) : xorAll (bits ++ [b]) = (xorAll bits ^^ b) := by
  induction bits with
  | nil => simp [xorAll]
  | cons c bits ih =>
    have hcons (l : List Bool) : xorAll (c :: l) = (c ^^ xorAll l) := rfl
    rw [List.cons_append, hcons, hcons, ih, Bool.xor_assoc]

theorem xorAll_map_xor (f g : Nat → Bool) (l : List Nat) :
    xorAll (l.map fun i => f i ^^ g i) = (xorAll (l.map f) ^^ xorAll (l.map g)) := by
  induction l with
  | nil => rfl
  | cons i l ih =>
    have hcons (h : Nat → Bool) : xorAll ((i :: l).map h) = (h i ^^ xorAll (l.map h)) := rfl
    rw [hcons, hcons, hcons, ih]
    cases f i <;> cases g i <;> simp

/-- Inverting data bit `pos` turns the control bits whose bit is set in `pos` (R142). -/
theorem controlBit_invertBit {p : Bytes} {pos : Nat} (h1 : 1 ≤ pos) (h8 : pos ≤ 8 * p.length) (i : Nat) :
    controlBit (invertBit p (pos - 1)) i = (controlBit p i ^^ pos.testBit i) := by
  have hpos : 1 + (pos - 1) = pos := by omega
  have hin : pos - 1 < (dataBits p).length := by rw [dataBits_length]; omega
  rw [controlBit, dataBits_invertBit, xorWhere_modify_not, decide_eq_true hin, Bool.true_and, hpos, controlBit]

theorem dataParity_invertBit {p : Bytes} {j : Nat} (h : j < 8 * p.length) :
    dataParity (invertBit p j) = !dataParity p := by
  rw [dataParity, dataBits_invertBit, xorWhere_modify_not, dataBits_length, decide_eq_true h, Bool.true_and,
    Bool.xor_true, dataParity]

/-! ### The bits of the FCS -/

/-- `F(n)` with the logarithm of R141. -/
theorem fcsLength_eq (n : Nat) : fcsLength n = (kOf n + 1 + 7) / 8 := by rw [fcsLength, controlBitCount_eq_kOf]

theorem controlBits_eq (p : Bytes) : controlBits p = (List.range (kOf p.length)).map (controlBit p) := by
  rw [controlBits, controlBitCount_eq_kOf]

/-- The bits of the FCS that are not padding, as received: the control bits and the parity bit (R147). -/
def receivedBits (n : Nat) (fcs : Bytes) : List Bool := (List.range (kOf n + 1)).map (wireBit fcs)

/-- Bit `x` of the FCS is bit `x` of the sequence it packs, and 0 in the padding (R143). -/
theorem wireBit_fecEncode (p : Bytes) (x : Nat) : wireBit (fecEncode p) x = (fcsBits p).getD x false :=
  fcsBit_packBits (fcsBits p) x

theorem wireBit_fecEncode_control {p : Bytes} {i : Nat} (h : i < kOf p.length) :
    wireBit (fecEncode p) i = controlBit p i := by
  have hlen : i < (controlBits p).length := by rwa [controlBits_length, controlBitCount_eq_kOf]
  rw [wireBit_fecEncode, fcsBits, List.getD_append _ _ _ _ hlen, List.getD_eq_getElem _ _ hlen]
  simp only [controlBits, List.getElem_map, List.getElem_range]

theorem wireBit_fecEncode_parity (p : Bytes) :
    wireBit (fecEncode p) (kOf p.length) = (dataParity p ^^ xorAll (controlBits p)) := by
  have hlen : (controlBits p).length = kOf p.length := by rw [controlBits_length, controlBitCount_eq_kOf]
  rw [wireBit_fecEncode, fcsBits, List.getD_append_right _ _ _ _ (Nat.le_of_eq hlen), hlen, Nat.sub_self,
    List.getD_cons_zero]

theorem wireBit_fecEncode_padding {p : Bytes} {x : Nat} (h : kOf p.length < x) : wireBit (fecEncode p) x = false := by
  have hlen : (fcsBits p).length ≤ x := by rw [fcsBits_length, controlBitCount_eq_kOf]; omega
  rw [wireBit_fecEncode, List.getD_eq_default _ _ hlen]

theorem receivedBits_fecEncode (p : Bytes) : receivedBits p.length (fecEncode p) = fcsBits p := by
  refine List.ext_getElem (by simp [receivedBits, fcsBits_length, controlBitCount_eq_kOf]) fun x hx hx' => ?_
  simp only [receivedBits, List.getElem_map, List.getElem_range]
  rw [wireBit_fecEncode, List.getD_eq_getElem _ _ hx']

theorem receivedBits_invertBit (n : Nat) {fcs : Bytes} {x : Nat} (h : x < 8 * fcs.length) :
    receivedBits n (invertBit fcs x) = (receivedBits n fcs).modify x (!·) := by
  refine List.ext_getElem (by simp [receivedBits]) fun y hy hy' => ?_
  simp only [receivedBits, List.getElem_modify, List.getElem_map, List.getElem_range, wireBit_invertBit, h, true_and]
  by_cases hx : x = y
  · simp [hx]
  · simp [hx, Ne.symm hx]

/-- R143: the parity bit makes data bits, control bits and itself even together. -/
theorem dataParity_xor_xorAll_fcsBits (p : Bytes) : (dataParity p ^^ xorAll (fcsBits p)) = false := by
  rw [fcsBits, xorAll_append_singleton]
  cases dataParity p <;> cases xorAll (controlBits p) <;> rfl

/-! ### The syndrome -/

theorem syndrome_testBit_eq (p fcs : Bytes) (i : Nat) :
    (syndrome p fcs).testBit i = (decide (i < kOf p.length) && (controlBit p i ^^ wireBit fcs i)) := by
  rw [← controlBitCount_eq_kOf]
  exact (sum_bits_testBit _ _).2 i

/-- Every data position is written with `k` bits, because `8n < 2^k` (R141). -/
theorem lt_two_pow_kOf {n pos : Nat} (h : pos ≤ 8 * n) : pos < 2 ^ kOf n := by
  have hspec := (controlBitCount_spec n).1
  rw [controlBitCount_eq_kOf] at hspec
  omega

/-- `2^i` is a data position for every control index `i` (R141). -/
theorem two_pow_le_of_lt_kOf {n i : Nat} (h : i < kOf n) : 2 ^ i ≤ 8 * n := by
  have hspec := (controlBitCount_spec n).2 i (by rwa [controlBitCount_eq_kOf])
  omega

theorem syndrome_fecEncode (p : Bytes) : syndrome p (fecEncode p) = 0 := by
  refine Nat.eq_of_testBit_eq fun i => ?_
  rw [syndrome_testBit_eq, Nat.zero_testBit]
  by_cases hi : i < kOf p.length
  · rw [wireBit_fecEncode_control hi, Bool.xor_self, Bool.and_false]
  · rw [decide_eq_false hi, Bool.false_and]

/-- An inverted data bit adds its position to the syndrome. -/
theorem syndrome_invertBit_data {p : Bytes} {pos : Nat} (fcs : Bytes) (h1 : 1 ≤ pos) (h8 : pos ≤ 8 * p.length) :
    syndrome (invertBit p (pos - 1)) fcs = syndrome p fcs ^^^ pos := by
  refine Nat.eq_of_testBit_eq fun i => ?_
  rw [Nat.testBit_xor, syndrome_testBit_eq, syndrome_testBit_eq, invertBit_length, controlBit_invertBit h1 h8,
    Bool.xor_right_comm]
  by_cases hi : i < kOf p.length
  · rw [decide_eq_true hi, Bool.true_and, Bool.true_and]
  · have hhigh : pos.testBit i = false :=
      Nat.testBit_lt_two_pow <| Nat.lt_of_lt_of_le (lt_two_pow_kOf h8) <|
        Nat.pow_le_pow_right (by decide) (Nat.not_lt.1 hi)
    rw [decide_eq_false hi, hhigh, Bool.false_and, Bool.false_and, Bool.xor_false]

/-- An inverted control bit `x` adds `2^x` to the syndrome; the parity bit and the padding do not count in it. -/
theorem syndrome_invertBit_fcs (p : Bytes) {fcs : Bytes} {x : Nat} (h : x < 8 * fcs.length) :
    syndrome p (invertBit fcs x) = syndrome p fcs ^^^ (if x < kOf p.length then 2 ^ x else 0) := by
  refine Nat.eq_of_testBit_eq fun i => ?_
  rw [Nat.testBit_xor, syndrome_testBit_eq, syndrome_testBit_eq, wireBit_invertBit]
  simp only [h, true_and]
  by_cases hx : x < kOf p.length
  · rw [if_pos hx, Nat.testBit_two_pow]
    by_cases hi : i = x
    · subst hi; simp [hx]
    · simp [hi, Ne.symm hi]
  · have hi : i < kOf p.length → ¬ i = x := by omega
    rw [if_neg hx, Nat.zero_testBit]
    by_cases hk : i < kOf p.length
    · simp [hi hk]
    · simp [hk]

/-! ### The overall parity -/

/-- R148: in mode `RECEIVED` the mismatch is the XOR of the data bits and all received FCS bits but the padding. -/
theorem parityMismatch_received (p fcs : Bytes) :
    parityMismatch .received p fcs = (dataParity p ^^ xorAll (receivedBits p.length fcs)) := by
  have hbits : receivedBits p.length fcs = receivedControlBits p fcs ++ [fcsBit fcs (controlBitCount p.length)] := by
    rw [receivedBits, receivedControlBits, List.range_succ, List.map_append, controlBitCount_eq_kOf]
    rfl
  rw [hbits, xorAll_append_singleton, ← Bool.xor_assoc, parityMismatch]

theorem parityMismatch_received_fecEncode (p : Bytes) : parityMismatch .received p (fecEncode p) = false := by
  rw [parityMismatch_received, receivedBits_fecEncode, dataParity_xor_xorAll_fcsBits]

theorem parityMismatch_received_invertBit_data {p : Bytes} {j : Nat} (fcs : Bytes) (h : j < 8 * p.length) :
    parityMismatch .received (invertBit p j) fcs = !parityMismatch .received p fcs := by
  rw [parityMismatch_received, parityMismatch_received, dataParity_invertBit h, invertBit_length, Bool.not_xor]

theorem parityMismatch_received_invertBit_fcs (p : Bytes) {fcs : Bytes} {x : Nat} (h : x < 8 * fcs.length) :
    parityMismatch .received p (invertBit fcs x)
      = (parityMismatch .received p fcs ^^ decide (x ≤ kOf p.length)) := by
  have hlen : (receivedBits p.length fcs).length = kOf p.length + 1 := by simp [receivedBits]
  have hle : decide (x < kOf p.length + 1) = decide (x ≤ kOf p.length) := decide_eq_decide.2 Nat.lt_succ_iff
  rw [parityMismatch_received, parityMismatch_received, receivedBits_invertBit _ h, xorAll_modify_not, hlen, hle,
    Bool.xor_assoc]

/-! ### `FEC.KCOUNT`, `FEC.ENCODE`, `FEC.VERIFY` -/

/-- Settles O13: the byte is `k(n)`, which is at most 11 for a one-byte `n` and so is not cut off. -/
theorem kcountIsLeastExponent : Obligations.KcountIsLeastExponent := by
  intro n s
  have hk : controlBitCount n.toNat ≤ 11 := controlBitCount_le (by have := n.isLt; omega)
  have hbyte : (BitVec.ofNat 8 (controlBitCount n.toNat)).toNat = controlBitCount n.toNat := by
    rw [BitVec.toNat_ofNat, Nat.mod_eq_of_lt (by omega)]
  refine ⟨BitVec.ofNat 8 (controlBitCount n.toNat), rfl, ?_⟩
  rw [hbyte]
  exact controlBitCount_spec n.toNat

theorem exec_fecEncode {p : Bytes} (h : p.length ≤ 64) (s : State) :
    exec (.fecEncode p) s = .next (s.answer (shortField (fecEncode p))) := by
  simp only [exec, execFecEncode, payloadInRange_iff.2 h, State.guarded_true]

theorem exec_fecEncode_of_long {p : Bytes} (h : 64 < p.length) (s : State) :
    exec (.fecEncode p) s = .next (s.raise .errOperand) := by
  have hrange : payloadInRange p = false := Bool.eq_false_iff.2 fun hr => by
    have := payloadInRange_iff.1 hr
    omega
  simp only [exec, execFecEncode, hrange, State.guarded_false]

/-- Settles O14: the FCS is `fecEncode`, whose control bits, parity bit and padding are read by `wireBit_fecEncode`. -/
theorem encodeReturnsHammingFcs : Obligations.EncodeReturnsHammingFcs := by
  intro p s
  refine ⟨fun hlong => exec_fecEncode_of_long hlong s, fun hp => ?_⟩
  refine ⟨fecEncode p, exec_fecEncode hp s, ?_, ?_, ?_, fun x hx => wireBit_fecEncode_padding hx⟩
  · rw [fecEncode_length, fcsLength_eq]
  · intro i hi
    rw [wireBit_fecEncode_control hi, controlBit_eq_odd]
  · have hones : (List.range (kOf p.length + 1)).countP (wireBit (fecEncode p)) = (fcsBits p).countP id := by
      rw [← receivedBits_fecEncode, receivedBits, List.countP_map]
      rfl
    have heven := dataParity_xor_xorAll_fcsBits p
    rw [dataParity_eq_odd, xorAll_eq_odd, ← decide_odd_add, decide_eq_false_iff_not] at heven
    rw [hones]
    omega

/-- `FEC.ENCODE` answers the FCS it computes and no other: the answer holds its bytes. -/
theorem exec_fecEncode_eq_iff {p : Bytes} (h : p.length ≤ 64) (fcs : Bytes) (s : State) :
    exec (.fecEncode p) s = .next { s with response := 0x00 :: BitVec.ofNat 8 fcs.length :: fcs }
      ↔ fecEncode p = fcs := by
  constructor
  · intro hexec
    rw [exec_fecEncode h] at hexec
    have hresponse := congrArg State.response (Host.Outcome.next.inj hexec)
    exact (List.cons.inj (List.cons.inj hresponse).2).2
  · rintro rfl
    exact exec_fecEncode h s

/-- Settles O15: the match is the flag byte of the comparison with `fecEncode`, which is what `FEC.ENCODE` answers. -/
theorem verifyComparesWithEncode : Obligations.VerifyComparesWithEncode := by
  intro p fcs s hp hf
  have hexec : exec (.fecVerify p fcs) s = .next (s.answer [flagByte (fecVerify p fcs)]) := by
    simp only [exec, execFecVerify, payloadInRange_iff.2 hp, fcsInRange_iff.2 hf, Bool.and_true, State.guarded_true]
  refine ⟨_, hexec, flagByte_cases _, ?_⟩
  rw [flagByte_eq_one_iff, exec_fecEncode_eq_iff hp, fecVerify, beq_iff_eq]

/-! ### What `FEC.CORRECT` answers in each case -/

theorem exec_fecCorrect_of_match {p fcs : Bytes} (h1 : 1 ≤ p.length) (h64 : p.length ≤ 64) (h : fecEncode p = fcs)
    (s : State) :
    exec (.fecCorrect p fcs) s = .next
      { s with response := 0x00 :: 0x00 :: 0 :: 0 :: 0 :: BitVec.ofNat 8 p.length :: p } := by
  have hf : fcs.length ≤ 2 := h ▸ fecEncode_length_le h64
  rw [exec_fecCorrect h64 hf, fecCorrect_fields, if_neg (List.ne_nil_of_length_pos h1), if_pos h]
  rfl

/-- R150 past its first three tests: the FCS has the right length and is not the payload's own. -/
theorem exec_fecCorrect_of_mismatch {p fcs : Bytes} {syn : Nat} {pmis : Bool} {s : State} (h1 : 1 ≤ p.length)
    (h64 : p.length ≤ 64) (hlen : fcs.length = fcsLength p.length) (hne : fecEncode p ≠ fcs)
    (hsyn : syndrome p fcs = syn) (hpmis : parityMismatch s.params.parityMode p fcs = pmis) :
    exec (.fecCorrect p fcs) s = .next
      { s with
        response :=
          if pmis = true ∧ 1 ≤ syn ∧ syn ≤ 8 * p.length then
            0x00 :: 0x01 :: BitVec.ofNat 8 (syn / 256) :: BitVec.ofNat 8 syn :: 1 :: BitVec.ofNat 8 p.length
              :: invertBit p (syn - 1)
          else
            0x00 :: 0x02 :: BitVec.ofNat 8 (syn / 256) :: BitVec.ofNat 8 syn :: (if pmis then 1 else 0)
              :: BitVec.ofNat 8 p.length :: p } := by
  have hf : fcs.length ≤ 2 := by rw [hlen, ← fecEncode_length]; exact fecEncode_length_le h64
  rw [exec_fecCorrect h64 hf, fecCorrect_fields, hsyn, hpmis, if_neg (List.ne_nil_of_length_pos h1), if_neg hne,
    if_neg (not_not_intro (hlen.trans (fcsLength_eq _))), State.answer, apply_ite (List.cons Status.ok.code)]
  rfl

/-- Settles O17: the first and the third test of R150; an FCS of another length is not the payload's own. -/
theorem correctOnEmptyAndWrongLength : Obligations.CorrectOnEmptyAndWrongLength := by
  intro p fcs s hp hf
  rw [exec_fecCorrect hp hf, fecCorrect_fields]
  refine ⟨fun hnil => by rw [if_pos hnil]; rfl, fun hnil hlen => ?_⟩
  have hne : fecEncode p ≠ fcs := fun h => hlen (by rw [← h, fecEncode_length, fcsLength_eq])
  rw [if_neg hnil, if_neg hne, if_pos hlen]
  rfl

/-! ### Errors inside the payload -/

/-- A word with a syndrome has an FCS that is not its payload's own. -/
theorem fecEncode_ne_of_syndrome {p fcs : Bytes} (h : syndrome p fcs ≠ 0) : fecEncode p ≠ fcs := by
  rintro rfl
  exact h (syndrome_fecEncode p)

/-- One inverted data bit: the syndrome is its position. -/
theorem syndrome_single {p : Bytes} {pos : Nat} (h1 : 1 ≤ pos) (h8 : pos ≤ 8 * p.length) :
    syndrome (invertBit p (pos - 1)) (fecEncode p) = pos := by
  rw [syndrome_invertBit_data _ h1 h8, syndrome_fecEncode, Nat.zero_xor]

/-- One inverted data bit, in either mode: `pmis` alone decides whether it is repaired, because its syndrome is a data
position. -/
theorem exec_fecCorrect_single {p : Bytes} {pos : Nat} {pmis : Bool} {s : State} (h64 : p.length ≤ 64)
    (h1 : 1 ≤ pos) (h8 : pos ≤ 8 * p.length)
    (hpmis : parityMismatch s.params.parityMode (invertBit p (pos - 1)) (fecEncode p) = pmis) :
    exec (.fecCorrect (invertBit p (pos - 1)) (fecEncode p)) s = .next
      { s with
        response :=
          if pmis = true then
            0x00 :: 0x01 :: BitVec.ofNat 8 (pos / 256) :: BitVec.ofNat 8 pos :: 1 :: BitVec.ofNat 8 p.length :: p
          else
            0x00 :: 0x02 :: BitVec.ofNat 8 (pos / 256) :: BitVec.ofNat 8 pos :: 0 :: BitVec.ofNat 8 p.length
              :: invertBit p (pos - 1) } := by
  have hsyn := syndrome_single h1 h8
  have hne := fecEncode_ne_of_syndrome (p := invertBit p (pos - 1)) (fcs := fecEncode p) (by omega)
  have hlen : (invertBit p (pos - 1)).length = p.length := invertBit_length ..
  rw [exec_fecCorrect_of_mismatch (by omega) (by omega) (by rw [fecEncode_length, hlen]) hne hsyn hpmis,
    invertBit_invertBit, hlen]
  cases pmis with
  | true => rw [if_pos ⟨rfl, h1, h8⟩, if_pos rfl]
  | false => rfl

/-- Settles O18: one inversion turns the parity of the sent word, which is even. -/
theorem singleDataErrorCorrected : Obligations.SingleDataErrorCorrected := by
  intro p pos s h64 h1 h8 hmode
  refine exec_fecCorrect_single (pmis := true) h64 h1 h8 ?_
  rw [hmode, parityMismatch_received_invertBit_data _ (by omega), parityMismatch_received_fecEncode, Bool.not_false]

/-- Settles O20: two inversions leave the parity even, and two different positions have a syndrome other than 0. -/
theorem doubleDataErrorDetected : Obligations.DoubleDataErrorDetected := by
  intro p a b s h64 ha hab hb hmode
  have hlen : (invertBit (invertBit p (a - 1)) (b - 1)).length = p.length := by
    rw [invertBit_length, invertBit_length]
  have hsyn : syndrome (invertBit (invertBit p (a - 1)) (b - 1)) (fecEncode p) = a ^^^ b := by
    rw [syndrome_invertBit_data _ (by omega) (by rw [invertBit_length]; exact hb), syndrome_single ha (by omega)]
  have hpmis : parityMismatch s.params.parityMode (invertBit (invertBit p (a - 1)) (b - 1)) (fecEncode p) = false := by
    rw [hmode, parityMismatch_received_invertBit_data _ (by rw [invertBit_length]; omega),
      parityMismatch_received_invertBit_data _ (by omega), parityMismatch_received_fecEncode, Bool.not_not]
  have hne := fecEncode_ne_of_syndrome (by rw [hsyn]; exact Nat.xor_ne_zero_iff.2 (Nat.ne_of_lt hab))
  rw [exec_fecCorrect_of_mismatch (by omega) (by omega) (by rw [fecEncode_length, hlen]) hne hsyn hpmis, hlen]
  rfl

/-! ### Errors in the FCS -/

/-- Settles O19: a control bit counts in the syndrome and in the parity, the parity bit in the parity only, a padding
bit in neither; so the control bit's `2^x`, which is a data position, is taken for a data error. -/
theorem singleFcsErrorIsNotRepaired : Obligations.SingleFcsErrorIsNotRepaired := by
  intro p x s h1 h64 hx hmode
  have hsyn : syndrome p (invertBit (fecEncode p) x) = if x < kOf p.length then 2 ^ x else 0 := by
    rw [syndrome_invertBit_fcs p hx, syndrome_fecEncode, Nat.zero_xor]
  have hpmis : parityMismatch s.params.parityMode p (invertBit (fecEncode p) x) = decide (x ≤ kOf p.length) := by
    rw [hmode, parityMismatch_received_invertBit_fcs p hx, parityMismatch_received_fecEncode, Bool.false_xor]
  rw [exec_fecCorrect_of_mismatch h1 h64 (by rw [invertBit_length, fecEncode_length]) (invertBit_ne_self hx).symm hsyn
    hpmis]
  rcases Nat.lt_trichotomy x (kOf p.length) with hcontrol | hparity | hpadding
  · rw [if_pos hcontrol, if_pos hcontrol, if_pos]
    exact ⟨decide_eq_true (Nat.le_of_lt hcontrol), Nat.one_le_two_pow, two_pow_le_of_lt_kOf hcontrol⟩
  · simp [hparity]
  · have hnot : ¬ x < kOf p.length := by omega
    have hne : x ≠ kOf p.length := by omega
    simp [hnot, hne, Nat.not_le.2 hpadding]

/-! ### The pair that passes as no error -/

theorem packBits_modify_not {bits : List Bool} {i : Nat} (h : i < bits.length) :
    packBits (bits.modify i (!·)) = invertBit (packBits bits) i := by
  have hin : i < 8 * (packBits bits).length := by rw [packBits_length]; omega
  refine eq_of_wireBit_eq (by simp [packBits_length]) fun x => ?_
  have hbits (l : List Bool) : wireBit (packBits l) x = l.getD x false := fcsBit_packBits l x
  rw [hbits, wireBit_invertBit, hbits, List.getD_eq_getElem?_getD, List.getD_eq_getElem?_getD, List.getElem?_modify]
  by_cases hx : i = x
  · subst hx; simp [h, hin]
  · simp [hx, Ne.symm hx]

theorem modify_concat_of_lt (f : Bool → Bool) {bits : List Bool} {i : Nat} (h : i < bits.length) (last : Bool) :
    (bits ++ [last]).modify i f = bits.modify i f ++ [last] := by
  induction bits generalizing i with
  | nil => exact absurd h (Nat.not_lt_zero i)
  | cons b bits ih =>
    cases i with
    | zero => rfl
    | succ i =>
      rw [List.cons_append, List.modify_succ_cons, List.modify_succ_cons, ih (Nat.lt_of_succ_lt_succ h),
        List.cons_append]

/-- Inverting data bit `2^i` turns control bit `i` and no other. -/
theorem controlBits_invertBit_two_pow {p : Bytes} {i : Nat} (h : i < kOf p.length) :
    controlBits (invertBit p (2 ^ i - 1)) = (controlBits p).modify i (!·) := by
  refine List.ext_getElem (by simp [controlBits_length]) fun j hj hj' => ?_
  simp only [controlBits, List.getElem_modify, List.getElem_map, List.getElem_range,
    controlBit_invertBit Nat.one_le_two_pow (two_pow_le_of_lt_kOf h), Nat.testBit_two_pow]
  by_cases hij : i = j <;> simp [hij]

/-- R154: the FCS of the payload with data bit `2^i` inverted differs from the sent one in control bit `i` only: the
parity bit is turned by the data bit and turned back by the control bit. -/
theorem fecEncode_invertBit_two_pow {p : Bytes} {i : Nat} (h : i < kOf p.length) :
    fecEncode (invertBit p (2 ^ i - 1)) = invertBit (fecEncode p) i := by
  have hcount : (controlBits p).length = kOf p.length := by rw [controlBits_length, controlBitCount_eq_kOf]
  have hdata : 2 ^ i - 1 < 8 * p.length := by
    have := two_pow_le_of_lt_kOf h
    have := Nat.one_le_two_pow (n := i)
    omega
  have hparity : (dataParity (invertBit p (2 ^ i - 1)) ^^ xorAll ((controlBits p).modify i (!·)))
      = (dataParity p ^^ xorAll (controlBits p)) := by
    rw [dataParity_invertBit hdata, xorAll_modify_not, hcount, decide_eq_true h, Bool.xor_true, Bool.not_xor_not]
  have hbits : fcsBits (invertBit p (2 ^ i - 1)) = (fcsBits p).modify i (!·) := by
    rw [fcsBits, fcsBits, controlBits_invertBit_two_pow h, hparity]
    exact (modify_concat_of_lt _ (by rwa [hcount]) _).symm
  rw [fecEncode, hbits, packBits_modify_not (by rw [fcsBits_length, controlBitCount_eq_kOf]; omega), fecEncode]

/-- Settles O21: the damaged FCS is that of the damaged payload. -/
theorem dataAndControlPairUndetected : Obligations.DataAndControlPairUndetected := by
  intro p i s h1 h64 hi
  have hlen : (invertBit p (2 ^ i - 1)).length = p.length := invertBit_length ..
  rw [exec_fecCorrect_of_match (by omega) (by omega) (fecEncode_invertBit_two_pow hi), hlen]

/-! ### Mode `RECOMPUTED` -/

/-- A data position of the longest payload is written with `k` of the 10 bits, so its ones are among these. -/
theorem countP_testBit_range {pos k : Nat} (hpos : pos < 2 ^ k) (hk : k ≤ 10) :
    (List.range 10).countP (fun i => pos.testBit i) = (List.range k).countP fun i => pos.testBit i := by
  obtain ⟨m, hm⟩ := Nat.exists_eq_add_of_le hk
  have hhigh : ((List.range m).map (k + ·)).countP (fun i => pos.testBit i) = 0 := by
    rw [List.countP_eq_zero]
    intro i hi
    obtain ⟨j, -, rfl⟩ := List.mem_map.1 hi
    rw [Nat.testBit_lt_two_pow (Nat.lt_of_lt_of_le hpos (Nat.pow_le_pow_right (by decide) (Nat.le_add_right k j)))]
    decide
  rw [hm, List.range_add, List.countP_append, hhigh, Nat.add_zero]

/-- The recomputed control bits turn with the data bit, one for each 1 of its position. -/
theorem xorAll_controlBits_invertBit {p : Bytes} {pos : Nat} (h1 : 1 ≤ pos) (h8 : pos ≤ 8 * p.length) :
    xorAll (controlBits (invertBit p (pos - 1)))
      = (xorAll (controlBits p) ^^ decide ((List.range (kOf p.length)).countP (fun i => pos.testBit i) % 2 = 1)) := by
  have hcontrol : controlBit (invertBit p (pos - 1)) = fun i => controlBit p i ^^ pos.testBit i :=
    funext (controlBit_invertBit h1 h8)
  rw [controlBits_eq, controlBits_eq, invertBit_length, hcontrol, xorAll_map_xor,
    xorAll_eq_odd ((List.range (kOf p.length)).map fun i => pos.testBit i), List.countP_map]
  rfl

/-- R155: the data bit turns the parity once, and each recomputed control bit it enters turns it once more. -/
theorem parityMismatch_recomputed_single {p : Bytes} {pos : Nat} (h64 : p.length ≤ 64) (h1 : 1 ≤ pos)
    (h8 : pos ≤ 8 * p.length) :
    parityMismatch .recomputed (invertBit p (pos - 1)) (fecEncode p)
      = decide (((List.range 10).countP fun i => pos.testBit i) % 2 = 0) := by
  have hk : kOf p.length ≤ 10 := by
    rw [← controlBitCount_eq_kOf]
    exact controlBitCount_le (by omega)
  have hparity : fcsBit (fecEncode p) (kOf p.length) = (dataParity p ^^ xorAll (controlBits p)) :=
    wireBit_fecEncode_parity p
  rw [countP_testBit_range (lt_two_pow_kOf h8) hk, parityMismatch, xorAll_controlBits_invertBit h1 h8,
    dataParity_invertBit (by omega), invertBit_length, controlBitCount_eq_kOf, hparity]
  rcases Nat.mod_two_eq_zero_or_one ((List.range (kOf p.length)).countP fun i => pos.testBit i) with hodd | hodd <;>
    rw [hodd] <;> cases dataParity p <;> cases xorAll (controlBits p) <;> rfl

/-- Settles O22: `exec_fecCorrect_single` with the parity of mode `RECOMPUTED`. -/
theorem recomputedModeSingleDataError : Obligations.RecomputedModeSingleDataError := by
  intro p pos s h64 h1 h8 hmode
  rw [exec_fecCorrect_single h64 h1 h8 (by rw [hmode, parityMismatch_recomputed_single h64 h1 h8])]
  simp only [decide_eq_true_eq]

end Sys2Proof.Machine
end

section
/-! PROOFS. `SEG.SEGMENT` and `RX.FIND` (spec/43_segment_reassemble.md): the cut of a message (O31) and the first frame
of a buffer (O32). -/

namespace Sys2Proof.Machine

/-! ### `SEG.SEGMENT` -/

/-- The payloads of the frames of a message, in order. -/
def segmentPayloads (message : Bytes) : List Bytes :=
  (List.range (frameCount message.length)).map fun j => segmentPayload message (j + 1)

@[simp] theorem segmentPayloads_length (message : Bytes) :
    (segmentPayloads message).length = frameCount message.length := by
  rw [segmentPayloads, List.length_map, List.length_range]

theorem frameCount_eq (len : Nat) : frameCount len = max 1 ((len + 63) / 64) := rfl

/-- R171: the frames cover the message. -/
theorem le_frameCount_mul (len : Nat) : len ≤ frameCount len * 64 := by rw [frameCount_eq]; omega

/-- The bound `min(i*64, len)` of R171 cuts nothing that the end of the message does not cut. -/
theorem segmentPayload_succ (message : Bytes) (j : Nat) :
    segmentPayload message (j + 1) = (message.drop (j * 64)).take 64 := by
  change (message.drop (j * 64)).take (min ((j + 1) * 64) message.length - j * 64) = _
  rw [List.take_eq_take_iff, List.length_drop]
  omega

/-- The first `n` payloads are the first `64 n` bytes. -/
theorem flatten_segmentPayload (message : Bytes) (n : Nat) :
    ((List.range n).map fun j => segmentPayload message (j + 1)).flatten = message.take (n * 64) := by
  induction n with
  | zero => rw [Nat.zero_mul, List.take_zero]; rfl
  | succ n ih =>
    rw [List.range_succ, List.map_append, List.flatten_append, ih, Nat.succ_mul, List.take_add]
    simp only [List.map_cons, List.map_nil, List.flatten_cons, List.flatten_nil, List.append_nil, segmentPayload_succ]

theorem flatten_segmentPayloads (message : Bytes) : (segmentPayloads message).flatten = message := by
  rw [segmentPayloads, flatten_segmentPayload, List.take_of_length_le (le_frameCount_mul _)]

/-- R171: a payload with another one behind it is full. -/
theorem length_of_mem_dropLast_segmentPayloads {message c : Bytes} (hc : c ∈ (segmentPayloads message).dropLast) :
    c.length = 64 := by
  obtain ⟨j, hj, rfl⟩ := List.getElem_of_mem hc
  rw [List.length_dropLast, segmentPayloads_length, frameCount_eq] at hj
  have hget : (segmentPayloads message).dropLast[j] = segmentPayload message (j + 1) := by
    simp only [segmentPayloads, List.getElem_dropLast, List.getElem_map, List.getElem_range]
  rw [hget, segmentPayload_succ, List.length_take, List.length_drop]
  omega

theorem length_le_of_mem_segmentPayloads {message c : Bytes} (hc : c ∈ segmentPayloads message) : c.length ≤ 64 := by
  obtain ⟨j, -, rfl⟩ := List.mem_map.1 hc
  exact segmentPayload_length message (j + 1)

theorem zipIdx_map_range {α : Type} (f : Nat → α) (n : Nat) :
    ((List.range n).map f).zipIdx = (List.range n).map fun j => (f j, j) := by
  refine List.ext_getElem (by simp) fun j h _ => ?_
  simp

/-- R171: the frames are the payloads with the count, their 1-based indices and their FCS. -/
theorem segment_eq_map_payloads (message : Bytes) :
    segment message = (segmentPayloads message).zipIdx.map fun c =>
      buildFrame (BitVec.ofNat 8 (segmentPayloads message).length) (BitVec.ofNat 8 (c.2 + 1)) c.1 := by
  rw [segmentPayloads_length, segmentPayloads, zipIdx_map_range, List.map_map]
  rfl

theorem exec_segSegment {message : Bytes} (h : message.length ≤ 16320) (s : State) :
    exec (.segSegment message) s = .next
      { s with
        response := 0x00 :: BitVec.ofNat 8 (segment message).length :: (segment message).flatMap Frame.fields } := by
  simp only [exec, execSegSegment, messageInRange_iff.2 h, State.guarded_true]
  rfl

/-- Settles O31: the chunks are `segmentPayloads`; above 16320 bytes the operand test of R82 fails. -/
theorem segmentCutsMessage : Obligations.SegmentCutsMessage := by
  refine fun m s => ⟨fun hlong => ?_, fun hm => ⟨segmentPayloads m, ?_, flatten_segmentPayloads m,
    segmentPayloads_length m, fun c => length_of_mem_dropLast_segmentPayloads,
    fun c => length_le_of_mem_segmentPayloads⟩⟩
  · exact exec_of_not_wellFormed (i := .segSegment m) (decide_eq_false (Nat.not_le.2 hlong)) s
  · rw [exec_segSegment hm, segment_eq_map_payloads, List.length_map, List.length_zipIdx, List.flatMap_map]
    rfl

/-! ### `RX.FIND` -/

/-- R175: `st` is the last index of the first run of start flags. -/
structure IsFirstRunEnd (buf : Bytes) (st : Nat) : Prop where
  startFlag : buf[st]? = some 0x0B
  firstRun : ∀ j k, j ≤ k → k ≤ st → buf[j]? = some 0x0B → buf[k]? = some 0x0B
  runEnds : buf[st + 1]? ≠ some 0x0B

namespace IsFirstRunEnd

theorem le {buf : Bytes} {a b : Nat} (ha : IsFirstRunEnd buf a) (hb : IsFirstRunEnd buf b) : b ≤ a := by
  refine Nat.le_of_not_lt fun hlt => ha.runEnds ?_
  exact hb.firstRun a (a + 1) (Nat.le_succ a) hlt ha.startFlag

theorem unique {buf : Bytes} {a b : Nat} (ha : IsFirstRunEnd buf a) (hb : IsFirstRunEnd buf b) : a = b :=
  Nat.le_antisymm (hb.le ha) (ha.le hb)

end IsFirstRunEnd

theorem findStart_eq_none {buf : Bytes} : findStart buf = none ↔ (0x0B : Byte) ∉ buf := by
  rw [findStart, Option.map_eq_none_iff, List.findIdx?_eq_none_iff]
  refine ⟨fun h hmem => absurd (h _ hmem) (by decide), fun h b hb => beq_false_of_ne fun heq => h ?_⟩
  exact Eq.subst (motive := (· ∈ buf)) heq hb

/-- The bytes that `takeWhile` takes satisfy its test, and the one behind them, if any, does not. -/
theorem getElem?_takeWhile_spec {α : Type} (p : α → Bool) (l : List α) :
    (∀ i < (l.takeWhile p).length, ∃ v, l[i]? = some v ∧ p v = true)
      ∧ ∀ v, l[(l.takeWhile p).length]? = some v → p v = false := by
  induction l with
  | nil => simp
  | cons a l ih =>
    cases ha : p a with
    | false => simp [ha]
    | true =>
      rw [List.takeWhile_cons_of_pos ha, List.length_cons]
      refine ⟨fun i hi => ?_, fun v hv => ih.2 v hv⟩
      cases i with
      | zero => exact ⟨a, rfl, ha⟩
      | succ i => exact ih.1 i (Nat.lt_of_succ_lt_succ hi)

/-- R175: the first start flag, and the rest of its run behind it. -/
theorem isFirstRunEnd_of_findStart {buf : Bytes} {st : Nat} (h : findStart buf = some st) : IsFirstRunEnd buf st := by
  obtain ⟨s, hs, rfl⟩ := Option.map_eq_some_iff.1 h
  obtain ⟨hlt, hflag, hbefore⟩ := List.findIdx?_eq_some_iff_getElem.1 hs
  obtain ⟨hrun, hend⟩ := getElem?_takeWhile_spec (fun b => b == Config.startFlag) (buf.drop (s + 1))
  generalize ((buf.drop (s + 1)).takeWhile fun b => b == Config.startFlag).length = n at hrun hend ⊢
  have hin (k : Nat) (hsk : s ≤ k) (hkn : k ≤ s + n) : buf[k]? = some 0x0B := by
    rcases Nat.eq_or_lt_of_le hsk with rfl | hsk
    · rw [List.getElem?_eq_getElem hlt, eq_of_beq hflag]; rfl
    · obtain ⟨v, hv, hp⟩ := hrun (k - (s + 1)) (by omega)
      rw [List.getElem?_drop, Nat.add_sub_of_le hsk, eq_of_beq hp] at hv
      exact hv
  refine ⟨hin _ (Nat.le_add_right s n) le_rfl, fun j k hjk hk hj => hin k ?_ hk, fun hstop => ?_⟩
  · refine Nat.le_trans (Nat.le_of_not_lt fun hjs => hbefore j hjs ?_) hjk
    obtain ⟨hjlt, hval⟩ := List.getElem?_eq_some_iff.1 hj
    rw [hval]; rfl
  · have := hend 0x0B (by rw [List.getElem?_drop, Nat.add_right_comm]; exact hstop)
    exact absurd this (by decide)

theorem findStart_eq_some_iff {buf : Bytes} {st : Nat} : findStart buf = some st ↔ IsFirstRunEnd buf st := by
  refine ⟨isFirstRunEnd_of_findStart, fun h => ?_⟩
  cases hf : findStart buf with
  | none => exact absurd (List.mem_of_getElem? h.startFlag) (findStart_eq_none.1 hf)
  | some st' => rw [(isFirstRunEnd_of_findStart hf).unique h]

/-- R175: between two flags the structural check tests the length only. -/
theorem closes_iff {buf : Bytes} {st e : Nat} (hst : buf[st]? = some 0x0B) (hlt : st < e) :
    (buf.getD e 0 == Config.endFlag && frmCheck (slice buf st (e + 1))) = true
      ↔ st + 4 ≤ e ∧ buf[e]? = some 0x0C := by
  rw [Bool.and_eq_true, beq_iff_eq, frmCheck_iff, slice_length]
  have hbyte : buf.getD e 0 = Config.endFlag ↔ buf[e]? = some 0x0C := by
    rw [List.getD_eq_getElem?_getD]
    cases buf[e]? with
    | none => exact ⟨fun h => absurd h (by decide), fun h => absurd h (by simp)⟩
    | some v => exact Option.some_inj.symm
  rw [hbyte]
  refine ⟨fun ⟨hend, hlen, _⟩ => ⟨by omega, hend⟩, fun ⟨hdist, hend⟩ => ?_⟩
  obtain ⟨hin, -⟩ := List.getElem?_eq_some_iff.1 hend
  refine ⟨hend, by omega, ?_, ?_⟩
  · rw [slice, List.head?_take, if_neg (by omega), List.head?_drop]
    exact hst
  · rw [List.getLast?_eq_getElem?, slice_length, slice, List.getElem?_take_of_lt (by omega), List.getElem?_drop]
    have hidx : st + (min (e + 1 - st) (buf.length - st) - 1) = e := by omega
    rw [hidx]
    exact hend

theorem findEnd_eq_some_iff {buf : Bytes} {st e : Nat} (hst : buf[st]? = some 0x0B) :
    findEnd buf st = some e
      ↔ st + 4 ≤ e ∧ buf[e]? = some 0x0C ∧ ∀ e', st + 4 ≤ e' → e' < e → buf[e']? ≠ some 0x0C := by
  rw [findEnd, List.find?_range'_eq_some, List.mem_range'_1]
  constructor
  · rintro ⟨hcloses, ⟨hlt, -⟩, hfirst⟩
    obtain ⟨hdist, hend⟩ := (closes_iff hst hlt).1 hcloses
    refine ⟨hdist, hend, fun e' hdist' hlt' hend' => ?_⟩
    have hnot := hfirst e' (by omega) hlt'
    rw [(closes_iff hst (by omega)).2 ⟨hdist', hend'⟩] at hnot
    exact Bool.noConfusion hnot
  · rintro ⟨hdist, hend, hfirst⟩
    obtain ⟨hin, -⟩ := List.getElem?_eq_some_iff.1 hend
    refine ⟨(closes_iff hst (by omega)).2 ⟨hdist, hend⟩, by omega, fun e' hlo hlt => ?_⟩
    rw [Bool.not_eq_true', Bool.eq_false_iff]
    intro hcloses
    obtain ⟨hdist', hend'⟩ := (closes_iff hst hlo).1 hcloses
    exact hfirst e' hdist' hlt hend'

/-- R175: a frame's bounds are those of the first run of start flags and of the end flag that the scan finds. -/
theorem isFirstFrame_iff {buf : Bytes} {st stop : Nat} :
    IsFirstFrame buf st stop ↔ findStart buf = some st ∧ ∃ e, stop = e + 1 ∧ findEnd buf st = some e := by
  rw [findStart_eq_some_iff]
  constructor
  · rintro ⟨hst, hrun, hruns, hlong, hend, hfirst⟩
    exact ⟨⟨hst, hrun, hruns⟩, stop - 1, by omega, (findEnd_eq_some_iff hst).2 ⟨by omega, hend, hfirst⟩⟩
  · rintro ⟨⟨hst, hrun, hruns⟩, e, rfl, he⟩
    obtain ⟨hdist, hend, hfirst⟩ := (findEnd_eq_some_iff hst).1 he
    exact ⟨hst, hrun, hruns, by omega, hend, hfirst⟩

theorem rxFind_of_isFirstFrame {buf : Bytes} {st stop : Nat} (h : IsFirstFrame buf st stop) :
    rxFind buf = (st, stop) := by
  obtain ⟨hst, e, rfl, he⟩ := isFirstFrame_iff.1 h
  simp only [rxFind, hst, he]

/-- What `RX.FIND` answers: a frame's bounds, or 0 and 0 when there is no frame. -/
theorem rxFind_cases (buf : Bytes) :
    IsFirstFrame buf (rxFind buf).1 (rxFind buf).2 ∨ (rxFind buf = (0, 0) ∧ ∀ a b, ¬ IsFirstFrame buf a b) := by
  by_cases h : ∃ a b, IsFirstFrame buf a b
  · obtain ⟨a, b, hab⟩ := h
    rw [rxFind_of_isFirstFrame hab]
    exact .inl hab
  · refine .inr ⟨?_, fun a b hab => h ⟨a, b, hab⟩⟩
    cases hst : findStart buf with
    | none => simp only [rxFind, hst]
    | some st =>
      cases he : findEnd buf st with
      | none => simp only [rxFind, hst, he]
      | some e => exact absurd ⟨st, e + 1, isFirstFrame_iff.2 ⟨hst, e, rfl, he⟩⟩ h

theorem rxFind_eq_zero_iff {buf : Bytes} : (rxFind buf).2 = 0 ↔ ∀ a b, ¬ IsFirstFrame buf a b := by
  rcases rxFind_cases buf with hframe | ⟨hzero, hnone⟩
  · exact ⟨fun h => absurd hframe.longEnough (by omega), fun h => absurd hframe (h _ _)⟩
  · exact ⟨fun _ => hnone, fun _ => by rw [hzero]⟩

theorem IsFirstFrame.stop_le {buf : Bytes} {st stop : Nat} (h : IsFirstFrame buf st stop) : stop ≤ buf.length := by
  obtain ⟨hin, -⟩ := List.getElem?_eq_some_iff.1 h.endFlag
  omega

theorem exec_rxFind {buf : Bytes} (h : buf.length ≤ 65535) (s : State) :
    exec (.rxFind buf) s = .next
      { s with response := 0x00 :: (twoBytes (rxFind buf).1 ++ twoBytes (rxFind buf).2) } := by
  simp only [exec, execRxFind, anyLen16_iff.2 h, State.guarded_true]
  rfl

/-- Settles O32: the two cases of `rxFind_cases`; a frame's bounds lie inside the buffer. -/
theorem findReturnsFirstFrame : Obligations.FindReturnsFirstFrame := by
  intro buf s hlen
  refine ⟨(rxFind buf).1, (rxFind buf).2, exec_rxFind hlen s, ?_⟩
  rcases rxFind_cases buf with hframe | ⟨hzero, hnone⟩
  · have hlong := hframe.longEnough
    have hin := hframe.stop_le
    exact ⟨by omega, by omega, fun _ => hframe, fun h => by omega⟩
  · rw [hzero]
    exact ⟨Nat.zero_le _, Nat.zero_le _, fun h => absurd rfl h, fun _ => ⟨rfl, hnone⟩⟩

end Sys2Proof.Machine
end

section
/-! PROOFS. `RX.DELIVER` before and around its scan (spec/43_segment_reassemble.md R177 to R179): jam stripping (O33),
overflow (O35) and resynchronisation (O36). -/

namespace Sys2Proof.Machine

/-! ### Jam stripping -/

theorem stripJam_append_of_no_jam {pre : Bytes} (h : ∀ x ∈ pre, x ≠ 0xFF) (rest : Bytes) :
    stripJam (pre ++ rest) = (pre ++ (stripJam rest).1, (stripJam rest).2) := by
  induction pre with
  | nil => rfl
  | cons a pre ih =>
    obtain ⟨ha, hpre⟩ := List.forall_mem_cons.1 h
    rw [List.cons_append, stripJam_cons _ fun hjam => ha hjam.1, ih hpre]
    rfl

/-- A run of fewer than four jam bytes is no jam signal. -/
theorem stripJam_short_run {q : Nat} (hq : q < 4) {post : Bytes} (h : post.head? ≠ some 0xFF) :
    stripJam (List.replicate q 0xFF ++ post) = (List.replicate q 0xFF ++ (stripJam post).1, (stripJam post).2) := by
  induction q with
  | zero => rfl
  | succ q ih =>
    have hshort : (List.replicate q (0xFF : Byte) ++ post).take 3 ≠ [0xFF, 0xFF, 0xFF] := fun htake => h <| by
      have hget : ((List.replicate q (0xFF : Byte) ++ post).take 3)[q]? = post.head? := by
        rw [List.getElem?_take_of_lt (by omega), List.getElem?_append_right (by simp), List.length_replicate,
          Nat.sub_self, List.head?_eq_getElem?]
      have hjam : ([0xFF, 0xFF, 0xFF] : Bytes)[q]? = some 0xFF := by
        have : q = 0 ∨ q = 1 ∨ q = 2 := by omega
        rcases this with rfl | rfl | rfl <;> rfl
      rw [← hget, htake, hjam]
    rw [List.replicate_succ, List.cons_append, stripJam_cons _ fun hjam => hshort hjam.2, ih (by omega)]
    rfl

/-- R177: a run of `q` jam bytes leaves `q mod 4` of them and counts `q div 4` runs. -/
theorem stripJam_run (q : Nat) {post : Bytes} (h : post.head? ≠ some 0xFF) :
    stripJam (List.replicate q 0xFF ++ post)
      = (List.replicate (q % 4) 0xFF ++ (stripJam post).1, q / 4 + (stripJam post).2) := by
  induction q using Nat.strong_induction_on with
  | _ q ih =>
    rcases Nat.lt_or_ge q 4 with hq | hq
    · rw [stripJam_short_run hq h, Nat.mod_eq_of_lt hq, Nat.div_eq_of_lt hq, Nat.zero_add]
    · obtain ⟨r, rfl⟩ := Nat.exists_eq_add_of_le' hq
      have hsignal : stripJam (List.replicate (r + 4) 0xFF ++ post)
          = ((stripJam (List.replicate r 0xFF ++ post)).1, (stripJam (List.replicate r 0xFF ++ post)).2 + 1) := rfl
      rw [hsignal, ih r (by omega), Nat.add_mod_right, Nat.add_div_right _ (by decide)]
      simp only [Nat.add_right_comm]

/-- Stripping leaves no jam signal, whatever run of jam bytes stands in front: what is left of a run is shorter than
four, and another byte still ends it. -/
theorem stripJam_stripJam_run (q : Nat) (b : Bytes) :
    stripJam (stripJam (List.replicate q 0xFF ++ b)).1 = ((stripJam (List.replicate q 0xFF ++ b)).1, 0) := by
  have hmod : q % 4 < 4 := Nat.mod_lt _ (by decide)
  induction b generalizing q with
  | nil =>
    have hnil : ([] : Bytes).head? ≠ some 0xFF := nofun
    rw [stripJam_run q hnil]
    exact stripJam_short_run hmod hnil
  | cons x b ih =>
    by_cases hx : x = 0xFF
    · subst hx
      have hlonger : List.replicate q (0xFF : Byte) ++ 0xFF :: b = List.replicate (q + 1) 0xFF ++ b := by
        rw [List.replicate_succ', List.append_assoc]; rfl
      rw [hlonger]
      exact ih (q + 1) (Nat.mod_lt _ (by decide))
    · have hhead (r : Bytes) : (x :: r).head? ≠ some 0xFF := fun heq => hx (Option.some.inj heq)
      have hrest : stripJam (stripJam b).1 = ((stripJam b).1, 0) := ih 0 (by decide)
      have hkept (r : Bytes) : stripJam (x :: r) = (x :: (stripJam r).1, (stripJam r).2) :=
        stripJam_cons r fun hjam => hx hjam.1
      rw [stripJam_run q (hhead b), hkept b]
      dsimp only
      rw [stripJam_short_run hmod (hhead _), hkept, hrest]

/-- The result of stripping is not stripped again. -/
theorem stripJam_stripJam (b : Bytes) : stripJam (stripJam b).1 = ((stripJam b).1, 0) := stripJam_stripJam_run 0 b

/-- R188: bytes without a jam signal are not stripped. -/
theorem stripJam_of_noJam {w : Bytes} (h : ∀ j, (w.drop j).take 4 ≠ [0xFF, 0xFF, 0xFF, 0xFF]) :
    stripJam w = (w, 0) := by
  induction w with
  | nil => rfl
  | cons a rest ih =>
    have hfirst : ¬ (a = 0xFF ∧ rest.take 3 = [0xFF, 0xFF, 0xFF]) := by
      rintro ⟨rfl, htake⟩
      exact h 0 (congrArg (0xFF :: ·) htake)
    rw [stripJam_cons rest hfirst, ih fun j => h (j + 1)]

/-! ### The buffer that is scanned -/

/-- R178. -/
theorem resyncs_iff {rxb c : Bytes} : resyncs rxb c = true ↔ c.head? = some 0x0B ∧ rxb ≠ [] := by
  rw [resyncs, Bool.and_eq_true, beq_iff_eq, Bool.not_eq_true', List.isEmpty_eq_false_iff]
  exact Iff.rfl

theorem resyncs_eq_false {rxb c : Bytes} (h : c.head? ≠ some 0x0B ∨ rxb = []) : resyncs rxb c = false := by
  rw [← Bool.not_eq_true, resyncs_iff]
  rintro ⟨hhead, hne⟩
  exact h.elim (fun hnot => hnot hhead) hne

/-- The bytes that the scan of R180 begins with: the buffer, unless a resynchronisation drops it, and the chunk. -/
def scannedBuffer (rxb c : Bytes) : Bytes := if c.head? = some 0x0B then c else rxb ++ c

theorem keptBuffer_append (rxb c : Bytes) : keptBuffer rxb c ++ c = scannedBuffer rxb c := by
  unfold keptBuffer scannedBuffer
  by_cases hhead : c.head? = some 0x0B
  · rw [if_pos hhead]
    by_cases hrxb : rxb = []
    · rw [hrxb, ite_self, List.nil_append]
    · rw [if_pos (resyncs_iff.2 ⟨hhead, hrxb⟩), List.nil_append]
  · rw [if_neg hhead, resyncs_eq_false (.inl hhead), if_neg Bool.false_ne_true]

theorem scannedBuffer_of_start {rxb c : Bytes} (h : c.head? = some 0x0B) : scannedBuffer rxb c = c := if_pos h

theorem scannedBuffer_of_no_resync {rxb c : Bytes} (h : c.head? ≠ some 0x0B ∨ rxb = []) :
    scannedBuffer rxb c = rxb ++ c := by
  unfold scannedBuffer
  rcases h with hhead | rfl
  · exact if_neg hhead
  · exact ite_self _

theorem scannedBuffer_length_le (rxb c : Bytes) : (scannedBuffer rxb c).length ≤ rxb.length + c.length := by
  unfold scannedBuffer
  split
  · exact Nat.le_add_left _ _
  · rw [List.length_append]

/-! ### The scan, apart from what stands before it -/

/-- The scan of R180 over `buf`, with no event but its own on the trace. -/
def scanOf (buf : Bytes) (s : State) : Scan := Scan.run buf.length ⟨buf, 0, [], { s with evTrace := [], rxb := [] }⟩

/-- The part of the response that the scan decides (R89). -/
def Scan.results (c : Scan) : Bytes :=
  twoBytes c.dropped ++ twoBytes c.frames.length ++ c.frames.flatMap FrameRecord.fields

/-- The state that the scan leaves, its buffer written back. -/
def afterScan (buf : Bytes) (s : State) : State := { (scanOf buf s).state with rxb := (scanOf buf s).buf }

/-- The event of stripping (R180). -/
def jamEvents (runs : Nat) : List Event := if 0 < runs then [.jamSeen runs] else []

/-- The event of resynchronising (R180). -/
def resyncEvents (resync : Bool) : List Event := if resync then [.resync] else []

/-- The scan appends its events to those of stripping and resynchronising. -/
theorem run_emitDelivery (buf : Bytes) (s : State) (runs : Nat) (resync : Bool) :
    Scan.run buf.length ⟨buf, 0, [], s.emitDelivery runs resync⟩ =
      ⟨(scanOf buf s).buf, (scanOf buf s).dropped, (scanOf buf s).frames,
        { (scanOf buf s).state with
          evTrace := s.evTrace ++ jamEvents runs ++ resyncEvents resync ++ (scanOf buf s).state.evTrace
          rxb := s.rxb }⟩ := by
  have hrun := Scan.run_accumulates buf.length buf 0 [] s (s.evTrace ++ jamEvents runs ++ resyncEvents resync) []
    s.rxb []
  simp only [List.append_nil, Nat.zero_add, List.nil_append] at hrun
  rw [State.emitDelivery_eq]
  exact hrun

/-- R180: a delivery that fits, by the scan of its bytes. -/
theorem exec_rxDeliver_of_fits {chunk c : Bytes} {runs : Nat} {s : State} (hlen : chunk.length ≤ 65535)
    (hstrip : stripJam chunk = (c, runs))
    (hfit : ∀ cap, s.params.rxbufCap = some cap → (scannedBuffer s.rxb c).length ≤ cap) :
    exec (.rxDeliver chunk) s = .next
      { afterScan (scannedBuffer s.rxb c) s with
        evTrace := s.evTrace ++ jamEvents runs
          ++ (resyncEvents (resyncs s.rxb c) ++ (scanOf (scannedBuffer s.rxb c) s).state.evTrace)
        response := 0x00 ::
          (twoBytes runs ++ flagByte (resyncs s.rxb c) :: (scanOf (scannedBuffer s.rxb c) s).results) } := by
  have hno : overflows s.params (scannedBuffer s.rxb c).length = false := overflows_eq_false_iff.2 hfit
  rw [exec_rxDeliver hlen]
  rcases deliver_cases chunk s with ⟨hover, -⟩ | ⟨-, scan, rfl, h⟩
  · rw [hstrip, keptBuffer_append, hno] at hover
    exact absurd hover Bool.false_ne_true
  · rw [h, hstrip, keptBuffer_append, run_emitDelivery, List.append_assoc]
    rfl

/-- R179: a delivery that does not fit. -/
theorem exec_rxDeliver_of_overflow {chunk c : Bytes} {runs cap : Nat} {s : State} (hlen : chunk.length ≤ 65535)
    (hstrip : stripJam chunk = (c, runs)) (hcap : s.params.rxbufCap = some cap)
    (hover : cap < (scannedBuffer s.rxb c).length) :
    exec (.rxDeliver chunk) s = .next
      { s with
        rxb := [], response := [0x50]
        evTrace := s.evTrace ++ jamEvents runs ++ (resyncEvents (resyncs s.rxb c) ++ [.rxOverflow]) } := by
  rw [exec_rxDeliver hlen]
  rcases deliver_cases chunk s with ⟨-, h⟩ | ⟨hfits, -⟩
  · rw [h, hstrip, State.emitDelivery_eq, ← List.append_assoc]
    rfl
  · rw [hstrip, keptBuffer_append] at hfits
    exact absurd (overflows_eq_false_iff.1 hfits cap hcap) (Nat.not_le.2 hover)

/-- A delivery fits or it does not (R179). -/
theorem fits_or_overflows (p : Params) (n : Nat) :
    (∀ cap, p.rxbufCap = some cap → n ≤ cap) ∨ ∃ cap, p.rxbufCap = some cap ∧ cap < n := by
  by_cases h : ∃ cap, p.rxbufCap = some cap ∧ cap < n
  · exact .inr h
  · exact .inl fun cap hcap => Nat.le_of_not_lt fun hlt => h ⟨cap, hcap, hlt⟩

theorem stripJam_fst_length_le {chunk : Bytes} (h : chunk.length ≤ 65535) : (stripJam chunk).1.length ≤ 65535 := by
  have := stripJam_length chunk
  omega

/-- Settles O33: what stands before a run and the run are stripped by `stripJam_append_of_no_jam` and `stripJam_run`;
the two deliveries have the same bytes to scan, since the stripped chunk has nothing to strip (`stripJam_stripJam`). -/
theorem jamRunsAreStripped : Obligations.JamRunsAreStripped := by
  refine ⟨rfl, fun pre post q hpre hpost => ?_, fun chunk s hlen => ?_⟩
  · rw [List.append_assoc, stripJam_append_of_no_jam hpre, stripJam_run q hpost, List.append_assoc]
  · have hlen' := stripJam_fst_length_le hlen
    have hclean : s.evTrace ++ jamEvents 0 = s.evTrace := List.append_nil _
    rcases fits_or_overflows s.params (scannedBuffer s.rxb (stripJam chunk).1).length with hfit | ⟨cap, hcap, hover⟩
    · have h := exec_rxDeliver_of_fits hlen' (stripJam_stripJam chunk) hfit
      rw [hclean] at h
      exact ⟨afterScan (scannedBuffer s.rxb (stripJam chunk).1) s, _, _, _, h, exec_rxDeliver_of_fits hlen rfl hfit,
        .inr ⟨_, rfl, rfl⟩⟩
    · have h := exec_rxDeliver_of_overflow hlen' (stripJam_stripJam chunk) hcap hover
      rw [hclean] at h
      exact ⟨{ s with rxb := [] }, _, _, _, h, exec_rxDeliver_of_overflow hlen rfl hcap hover, .inl ⟨rfl, rfl⟩⟩

/-! ### Overflow -/

theorem exec_rxDeliver_ok_of_fits {chunk c : Bytes} {runs : Nat} {s : State} (hlen : chunk.length ≤ 65535)
    (hstrip : stripJam chunk = (c, runs))
    (hfit : ∀ cap, s.params.rxbufCap = some cap → (scannedBuffer s.rxb c).length ≤ cap) :
    ∃ t, exec (.rxDeliver chunk) s = .next t ∧ t.response.head? = some 0x00 :=
  ⟨_, exec_rxDeliver_of_fits hlen hstrip hfit, rfl⟩

/-- Settles O35: the length of the scanned bytes against the capacity, in each of the cases. -/
theorem deliverOverflow : Obligations.DeliverOverflow := by
  intro chunk s c runs hlen hstrip
  refine ⟨fun cap hcap => ⟨fun hkeep hover => ?keep, fun hhead hrxb hover => ?resync, fun hhead hle => ?alone,
    fun hle => ?whole⟩, fun hinf => ?infinite⟩
  case keep =>
    have hbuf := scannedBuffer_of_no_resync hkeep
    have h := exec_rxDeliver_of_overflow hlen hstrip hcap (by rw [hbuf, List.length_append]; exact hover)
    rw [resyncs_eq_false hkeep] at h
    exact h
  case resync =>
    have h := exec_rxDeliver_of_overflow hlen hstrip hcap (by rw [scannedBuffer_of_start hhead]; exact hover)
    rw [resyncs_iff.2 ⟨hhead, hrxb⟩] at h
    exact h
  case alone =>
    refine exec_rxDeliver_ok_of_fits hlen hstrip fun cap' hcap' => ?_
    rw [scannedBuffer_of_start hhead, ← Option.some.inj (hcap.symm.trans hcap')]
    exact hle
  case whole =>
    refine exec_rxDeliver_ok_of_fits hlen hstrip fun cap' hcap' => ?_
    rw [← Option.some.inj (hcap.symm.trans hcap')]
    exact (scannedBuffer_length_le _ _).trans hle
  case infinite =>
    refine exec_rxDeliver_ok_of_fits hlen hstrip fun cap hcap => ?_
    rw [hinf] at hcap
    exact absurd hcap nofun

/-! ### Resynchronisation -/

theorem FrameFate.event_ne_resync (fate : FrameFate) : fate.event ≠ .resync := by
  cases fate <;> exact nofun

/-- The scan itself reports no resynchronisation. -/
theorem Scan.run_no_resync (turns : Nat) {c : Scan} (h : .resync ∉ c.state.evTrace) :
    .resync ∉ (Scan.run turns c).state.evTrace := by
  induction turns generalizing c with
  | zero => exact h
  | succ n ih =>
    unfold Scan.run
    split
    · exact h
    · refine ih ?_
      rw [Scan.turn_eq, State.emit_evTrace, afterFrame_eq, List.mem_append, List.mem_singleton]
      exact not_or.2 ⟨h, (FrameFate.event_ne_resync _).symm⟩

theorem scanOf_no_resync (buf : Bytes) (s : State) : .resync ∉ (scanOf buf s).state.evTrace :=
  Scan.run_no_resync _ nofun

/-- Settles O36: a chunk that opens with a start flag is scanned alone whatever the buffer holds; any other delivery
has no `Resync` before its scan, and the scan has none. -/
theorem resyncDiscardsStaleBuffer : Obligations.ResyncDiscardsStaleBuffer := by
  intro chunk s c runs hlen hstrip
  refine ⟨fun hhead hrxb hfit => ?_, fun hkeep hfit => ?_⟩
  · have hbuf (rxb : Bytes) : scannedBuffer rxb c = c := scannedBuffer_of_start hhead
    have hempty := exec_rxDeliver_of_fits (s := { s with rxb := [] }) hlen hstrip (by rw [hbuf]; exact hfit)
    have hstale := exec_rxDeliver_of_fits hlen hstrip (by rw [hbuf]; exact hfit)
    rw [hbuf, resyncs_eq_false (.inr rfl)] at hempty
    rw [hbuf, resyncs_iff.2 ⟨hhead, hrxb⟩] at hstale
    exact ⟨afterScan c s, (scanOf c s).state.evTrace, (scanOf c s).results, hempty, hstale⟩
  · have hbuf := scannedBuffer_of_no_resync hkeep
    have h := exec_rxDeliver_of_fits hlen hstrip (by rw [hbuf, List.length_append]; exact hfit)
    rw [resyncs_eq_false hkeep] at h
    exact ⟨afterScan (scannedBuffer s.rxb c) s, _, _, h, scanOf_no_resync _ _⟩

end Sys2Proof.Machine
end

section
/-! PROOFS. The scan of `RX.DELIVER` (spec/43_segment_reassemble.md R180, R181), frame by frame (O37). -/

namespace Sys2Proof.Machine

/-! ### The scan, frame by frame -/

theorem Scan.run_of_no_frame (turns : Nat) {c : Scan} (h : (rxFind c.buf).2 = 0) : Scan.run turns c = c := by
  cases turns with
  | zero => rfl
  | succ n => rw [Scan.run, if_pos h]

/-- R183: with no complete frame the scan keeps every byte. -/
theorem scanOf_of_no_frame {buf : Bytes} (h : ∀ a b, ¬ IsFirstFrame buf a b) (s : State) :
    scanOf buf s = ⟨buf, 0, [], { s with evTrace := [], rxb := [] }⟩ :=
  Scan.run_of_no_frame _ (rxFind_eq_zero_iff.2 h)

theorem scanOf_nil (s : State) : scanOf [] s = ⟨[], 0, [], { s with evTrace := [], rxb := [] }⟩ := rfl

/-- R176, R180: the first frame is extracted and processed, and the rest is scanned on. -/
theorem scanOf_of_frame {buf w : Bytes} {st stop : Nat} (h : IsFirstFrame buf st stop)
    (hw : w = (buf.take stop).drop st) (s : State) :
    scanOf buf s =
      ⟨(scanOf (buf.drop stop) (afterFrame w s)).buf,
        (processFrame w s).drops + (scanOf (buf.drop stop) (afterFrame w s)).dropped,
        (processFrame w s).records ++ (scanOf (buf.drop stop) (afterFrame w s)).frames,
        { (scanOf (buf.drop stop) (afterFrame w s)).state with
          evTrace := (processFrame w s).event :: (scanOf (buf.drop stop) (afterFrame w s)).state.evTrace
          rxb := [] }⟩ := by
  have hslice : slice buf st stop = w := by rw [hw, List.drop_take, slice]
  have hlong := h.longEnough
  have hin := h.stop_le
  obtain ⟨n, hn⟩ : ∃ n, buf.length = n + 1 := ⟨buf.length - 1, by omega⟩
  have hrest : (buf.drop stop).length ≤ n := by rw [List.length_drop]; omega
  rw [scanOf, hn, Scan.run, rxFind_of_isFirstFrame h, if_neg (by omega), Scan.turn_eq]
  dsimp only
  rw [hslice, processFrame_observed, afterFrame_observed, Scan.run_stable (c := ⟨buf.drop stop, _, _, _⟩) le_rfl hrest]
  have hrun := Scan.run_accumulates (buf.drop stop).length (buf.drop stop) (processFrame w s).drops
    (processFrame w s).records (afterFrame w s) [(processFrame w s).event] [] [] []
  rw [Nat.zero_add, List.nil_append]
  exact hrun

/-- A delivery of nothing goes on with the bytes that stand in the buffer. -/
theorem exec_rxDeliver_nil {rest : Bytes} {s : State} {old : List Event} (hold : s.evTrace = old)
    (hfit : ∀ cap, s.params.rxbufCap = some cap → rest.length ≤ cap) :
    exec (.rxDeliver []) { s with rxb := rest } = .next
      { afterScan rest s with
        evTrace := old ++ (scanOf rest s).state.evTrace
        response := 0x00 :: (twoBytes 0 ++ 0x00 :: (scanOf rest s).results) } := by
  subst hold
  have hbuf : scannedBuffer rest [] = rest := List.append_nil _
  have h := exec_rxDeliver_of_fits (chunk := []) (c := []) (runs := 0) (s := { s with rxb := rest })
    (Nat.zero_le _) rfl (by rw [hbuf]; exact hfit)
  have hclean : s.evTrace ++ jamEvents 0 = s.evTrace := List.append_nil _
  rw [hbuf, resyncs_eq_false (rxb := rest) (c := []) (.inl nofun), hclean] at h
  exact h

theorem resyncEvents_resyncs (rxb c : Bytes) :
    resyncEvents (resyncs rxb c) = if c.head? = some 0x0B ∧ rxb ≠ [] then [.resync] else [] := by
  simp only [resyncEvents, resyncs_iff]

theorem flagByte_resyncs (rxb c : Bytes) :
    flagByte (resyncs rxb c) = if c.head? = some 0x0B ∧ rxb ≠ [] then 1 else 0 := by
  simp only [flagByte, resyncs_iff]

section Fits

variable {chunk c buf : Bytes} {runs : Nat} {s : State} (hlen : chunk.length ≤ 65535)
  (hstrip : stripJam chunk = (c, runs)) (hbuf : buf = scannedBuffer s.rxb c)
  (hfit : ∀ cap, s.params.rxbufCap = some cap → buf.length ≤ cap)

include hlen hstrip hbuf hfit

/-- R183: a delivery that completes no frame. -/
theorem exec_rxDeliver_of_no_frame (hnone : ∀ a b, ¬ IsFirstFrame buf a b) :
    exec (.rxDeliver chunk) s = .next
      { s with
        rxb := buf, evTrace := s.evTrace ++ (jamEvents runs ++ resyncEvents (resyncs s.rxb c))
        response := 0x00 :: (twoBytes runs ++ flagByte (resyncs s.rxb c) :: (twoBytes 0 ++ twoBytes 0)) } := by
  subst hbuf
  rw [exec_rxDeliver_of_fits hlen hstrip hfit, afterScan, scanOf_of_no_frame hnone, ← List.append_assoc,
    List.append_nil, List.append_assoc]
  rfl

/-- R180: what a delivery makes of the first frame in its bytes stands before what the scan makes of the bytes behind
the frame. -/
theorem exec_rxDeliver_of_frame {w : Bytes} {st stop : Nat} (hframe : IsFirstFrame buf st stop)
    (hw : w = (buf.take stop).drop st) :
    exec (.rxDeliver chunk) s = .next
      { afterScan (buf.drop stop) (afterFrame w s) with
        evTrace := s.evTrace ++ (jamEvents runs ++ resyncEvents (resyncs s.rxb c))
          ++ (processFrame w s).event :: (scanOf (buf.drop stop) (afterFrame w s)).state.evTrace
        response := 0x00 :: (twoBytes runs ++ flagByte (resyncs s.rxb c) ::
          (twoBytes ((scanOf (buf.drop stop) (afterFrame w s)).dropped + (processFrame w s).drops)
            ++ twoBytes ((scanOf (buf.drop stop) (afterFrame w s)).frames.length + (processFrame w s).records.length)
            ++ ((processFrame w s).records.flatMap FrameRecord.fields
              ++ (scanOf (buf.drop stop) (afterFrame w s)).frames.flatMap FrameRecord.fields))) } := by
  subst hbuf
  rw [exec_rxDeliver_of_fits hlen hstrip hfit, afterScan, scanOf_of_frame hframe hw, ← List.append_assoc,
    ← List.append_assoc, ← List.flatMap_append, Nat.add_comm _ (FrameFate.drops _), Nat.add_comm _ (List.length _),
    ← List.length_append]
  rfl

/-- R180: the bytes behind the first frame are scanned as a delivery of nothing more would scan them. -/
theorem exec_rxDeliver_then_rest {w : Bytes} {st stop : Nat} (hframe : IsFirstFrame buf st stop)
    (hw : w = (buf.take stop).drop st) :
    ∃ (t : State) (events : List Event) (dropped frames : Nat) (records : Bytes),
      exec (.rxDeliver []) { afterFrame w s with rxb := buf.drop stop } = .next
          { t with
            evTrace := s.evTrace ++ events
            response := 0x00 :: (twoBytes 0 ++ 0x00 :: (twoBytes dropped ++ twoBytes frames ++ records)) }
        ∧ exec (.rxDeliver chunk) s = .next
          { t with
            evTrace := s.evTrace ++ (jamEvents runs ++ resyncEvents (resyncs s.rxb c))
              ++ (processFrame w s).event :: events
            response := 0x00 :: (twoBytes runs ++ flagByte (resyncs s.rxb c) ::
              (twoBytes (dropped + (processFrame w s).drops) ++ twoBytes (frames + (processFrame w s).records.length)
                ++ ((processFrame w s).records.flatMap FrameRecord.fields ++ records))) } := by
  have hev : (afterFrame w s).evTrace = s.evTrace := by rw [afterFrame_eq]
  have hparams : (afterFrame w s).params = s.params := by rw [afterFrame_eq]
  have hrest : ∀ cap, (afterFrame w s).params.rxbufCap = some cap → (buf.drop stop).length ≤ cap := fun cap hcap => by
    rw [List.length_drop]
    exact (Nat.sub_le _ _).trans (hfit cap (hparams ▸ hcap))
  exact ⟨afterScan (buf.drop stop) (afterFrame w s), _, _, _, _, exec_rxDeliver_nil hev hrest,
    exec_rxDeliver_of_frame hlen hstrip hbuf hfit hframe hw⟩

end Fits

/-! ### The fate of a frame -/

/-- R181: a frame is dropped where unstuffing or deserialization fails. -/
theorem unwrapFrame_eq_error_iff {w : Bytes} {e : Status} :
    unwrapFrame w = .error e ↔ unstuff w = .error e ∨ ∃ u, unstuff w = .ok u ∧ deserialize u = .error e := by
  unfold unwrapFrame
  cases unstuff w with
  | error e' => simp
  | ok u => simp

theorem unwrapFrame_of_ok {w u : Bytes} {f : Frame} (hu : unstuff w = .ok u) (hf : deserialize u = .ok f) :
    unwrapFrame w = .ok f := by
  simp only [unwrapFrame, hu, hf]

theorem processFrame_of_error {w : Bytes} {e : Status} (h : unwrapFrame w = .error e) (s : State) :
    processFrame w s = .dropped e := by
  simp only [processFrame, h]

theorem afterFrame_of_error {w : Bytes} {e : Status} (h : unwrapFrame w = .error e) (s : State) :
    afterFrame w s = s := by
  simp only [afterFrame, h]

theorem processFrame_of_ok {w : Bytes} {f : Frame} (h : unwrapFrame w = .ok f) (s : State) :
    processFrame w s = .delivered (receiveFrame f s) := by
  simp only [processFrame, h]

theorem afterFrame_of_ok {w : Bytes} {f : Frame} (h : unwrapFrame w = .ok f) (s : State) :
    afterFrame w s = (receiveInjection f.payload s).state := by
  simp only [afterFrame, h]

/-- R92: the outcome byte. -/
theorem FecOutcome.code_eq {o : FecOutcome} {b : Byte}
    (h : (o = .emptyPayload ∧ b = 0xFF) ∨ (o = .noError ∧ b = 0x00) ∨ (o = .corrected ∧ b = 0x01)
      ∨ (o = .uncorrectable ∧ b = 0x02)) : o.code = b := by
  rcases h with ⟨rfl, rfl⟩ | ⟨rfl, rfl⟩ | ⟨rfl, rfl⟩ | ⟨rfl, rfl⟩ <;> rfl

/-- R89: the fields of a record whose `last` says that the sequence number is the total. -/
theorem FrameRecord.fields_eq (total sequence : Byte) (o : FecOutcome) (injected : Nat) (p : Bytes) :
    FrameRecord.fields ⟨total, sequence, o, injected, decide (sequence = total), p⟩
      = [total, sequence, o.code, BitVec.ofNat 8 injected, if sequence = total then 1 else 0,
          BitVec.ofNat 8 p.length] ++ p := by
  have hlast : flagByte (decide (sequence = total)) = if sequence = total then 1 else 0 := by
    simp only [flagByte, decide_eq_true_eq]
  rw [← hlast]
  rfl

/-- A record's fields written out between other bytes. -/
theorem FrameRecord.append_fields (front : Bytes) (total sequence : Byte) (o : FecOutcome) (injected : Nat)
    (p rest : Bytes) :
    front ++ [total, sequence, o.code, BitVec.ofNat 8 injected, if sequence = total then 1 else 0,
        BitVec.ofNat 8 p.length] ++ p ++ rest
      = front ++ ([FrameRecord.mk total sequence o injected (decide (sequence = total)) p].flatMap FrameRecord.fields
          ++ rest) := by
  rw [List.flatMap_singleton, FrameRecord.fields_eq, List.append_assoc, List.append_assoc, List.append_assoc]

/-! ### A whole frame -/

/-- R121: a stuffed interior byte is one or two bytes, the first of them no start flag. -/
theorem stuffedByte_eq_cons (v : Byte) : ∃ a rest, stuffedByte v = a :: rest ∧ a ≠ 0x0B := by
  unfold stuffedByte
  by_cases hstart : v = 0x0B
  · exact ⟨0x7D, [0x5B], if_pos hstart, by decide⟩
  rw [if_neg hstart]
  split
  · exact ⟨0x7D, [0x2D], rfl, by decide⟩
  · exact ⟨v, [], rfl, hstart⟩

theorem length_le_flatMap_stuffedByte (b : Bytes) : b.length ≤ (b.flatMap stuffedByte).length := by
  induction b with
  | nil => exact Nat.zero_le _
  | cons v b ih =>
    obtain ⟨a, rest, hv, -⟩ := stuffedByte_eq_cons v
    rw [List.flatMap_cons, hv, List.length_append, List.length_cons, List.length_cons]
    omega

theorem wireFrame_eq (f : Frame) :
    wireFrame f = 0x0B :: (([f.total, f.sequence] ++ f.payload ++ f.fcs).flatMap stuffedByte ++ [0x0C]) :=
  stuff_ends 0x0B 0x0C ([f.total, f.sequence] ++ f.payload ++ f.fcs)

/-- R188: a stuffed frame with no `0x0C` inside is found whole: stuffing leaves no start flag behind the first. -/
theorem Transparent.isFirstFrame {f : Frame} (hf : 1 ≤ f.fcs.length) (h : Transparent (wireFrame f)) :
    IsFirstFrame (wireFrame f) 0 (wireFrame f).length := by
  have hinterior := length_le_flatMap_stuffedByte ([f.total, f.sequence] ++ f.payload ++ f.fcs)
  have hlen : (wireFrame f).length
      = (([f.total, f.sequence] ++ f.payload ++ f.fcs).flatMap stuffedByte).length + 2 := by
    rw [wireFrame_eq, List.length_cons, List.length_append]; rfl
  simp only [List.length_append, List.length_cons, List.length_nil] at hinterior
  obtain ⟨a, rest, ha, hne⟩ := stuffedByte_eq_cons f.total
  have hsecond : (wireFrame f)[1]? = some a := by
    rw [wireFrame_eq, List.append_assoc, List.cons_append, List.flatMap_cons, ha]; rfl
  have hlast : (wireFrame f)[(wireFrame f).length - 1]? = some 0x0C := by
    rw [← List.getLast?_eq_getElem?, wireFrame_eq, ← List.cons_append, List.getLast?_concat]
  refine ⟨by rw [wireFrame_eq]; rfl, fun j k hjk hk hj => ?_, ?_, by omega, hlast, fun e he hlt => ?_⟩
  · obtain rfl : k = j := by omega
    exact hj
  · rw [hsecond]
    exact fun heq => hne (Option.some.inj heq)
  · exact h.noEarlyEnd e he (by omega)

/-- A frame delivered whole, in one chunk, into an empty buffer: its record, and nothing left. -/
theorem exec_rxDeliver_whole {f : Frame} {s : State} (hsplits : f.Splits) (ht : Transparent (wireFrame f))
    (hrxb : s.rxb = []) (hlegal : s.params.legal = true) :
    exec (.rxDeliver (wireFrame f)) s = .next
      { (receiveInjection f.payload s).state with
        evTrace := s.evTrace ++ [.frameDelivered (receiveFrame f s)]
        response := [0x00, 0, 0, 0, 0, 0, 0, 1] ++ (receiveFrame f s).fields } := by
  obtain ⟨hp, hf1, hf2⟩ := hsplits.inRange
  have hle : (wireFrame f).length ≤ 138 := (stuffedInRange_iff.1 (wireFrame_inRange hp hf2)).2
  have hunwrap : unwrapFrame (wireFrame f) = .ok f :=
    unwrapFrame_of_ok (unstuff_stuff _) (deserialize_serialize hsplits)
  have hhead : (wireFrame f).head? = some 0x0B := by rw [wireFrame_eq]; rfl
  have hbuf : wireFrame f = scannedBuffer s.rxb (wireFrame f) := (scannedBuffer_of_start hhead).symm
  have hfit : ∀ cap, s.params.rxbufCap = some cap → (wireFrame f).length ≤ cap := fun cap hcap => by
    simp only [Params.legal, hcap] at hlegal
    exact hle.trans (of_decide_eq_true hlegal)
  have h := exec_rxDeliver_of_frame (hle.trans (by decide)) (stripJam_of_noJam ht.noJam) hbuf hfit
    (ht.isFirstFrame hf1) (w := wireFrame f) (by rw [List.take_length, List.drop_zero])
  have hstate : { (receiveInjection f.payload s).state with rxb := [] } = (receiveInjection f.payload s).state := by
    rw [receiveInjection_state, ← hrxb]
  rw [List.drop_length, afterScan, scanOf_nil, processFrame_of_ok hunwrap, afterFrame_of_ok hunwrap,
    resyncs_eq_false (.inr hrxb)] at h
  rw [h, ← hstate]
  simp [FrameFate.records, FrameFate.event, FrameFate.drops, twoBytes, jamEvents, resyncEvents, flagByte]

theorem receiveInjection_of_bypass_or_nil {p : Bytes} {s : State} (h : s.emuEn = false ∨ p = []) :
    receiveInjection p s = ⟨p, 0, s⟩ := by
  unfold receiveInjection
  rcases h with he | rfl
  · rw [he]; rfl
  · exact ite_self _

/-- R146, R151: a payload with its own FCS. -/
theorem fecCorrect_fecEncode (mode : ParityMode) (p : Bytes) :
    fecCorrect mode p (fecEncode p) = ⟨if p = [] then .emptyPayload else .noError, 0, false, p⟩ := by
  rcases fecCorrect_cases mode p (fecEncode p) with ⟨hnil, h⟩ | ⟨hne, -, h⟩ | ⟨-, hne, -⟩ | ⟨-, hne, -⟩ | ⟨-, hne, -⟩
  · rw [h, if_pos (List.length_eq_zero_iff.1 hnil)]
  · rw [h, if_neg fun hnil => hne (List.length_eq_zero_iff.2 hnil)]
  all_goals exact absurd rfl hne

/-- R203: in mode `RECEIVED` one inverted bit of the payload is put right. -/
theorem fecCorrect_invertBit {p : Bytes} {j : Nat} (h : j < 8 * p.length) :
    fecCorrect .received (invertBit p j) (fecEncode p) = ⟨.corrected, j + 1, true, p⟩ := by
  have hsyn : syndrome (invertBit p j) (fecEncode p) = j + 1 := syndrome_single (pos := j + 1) (Nat.succ_pos j) h
  have hpmis : parityMismatch .received (invertBit p j) (fecEncode p) = true := by
    rw [parityMismatch_received_invertBit_data _ h, parityMismatch_received_fecEncode, Bool.not_false]
  have hne := fecEncode_ne_of_syndrome (p := invertBit p j) (fcs := fecEncode p) (by omega)
  have hlen : (invertBit p j).length = p.length := invertBit_length ..
  rcases fecCorrect_cases .received (invertBit p j) (fecEncode p) with ⟨hnil, -⟩ | ⟨-, heq, -⟩ | ⟨-, -, hfcs, -⟩
    | ⟨-, -, -, -, -, -, hc⟩ | ⟨-, -, -, hnot, -⟩
  · omega
  · exact absurd heq hne
  · exact absurd (by rw [fecEncode_length, hlen]) hfcs
  · have hback : flipDataBit (invertBit p j) (j + 1) = p := invertBit_invertBit p j
    rw [hc, hsyn, hback]
  · exact absurd ⟨by omega, by omega, hpmis⟩ hnot

/-- R12, R202: the injector counts bits from the least significant. -/
theorem flipBit_eq_invertBit (p : Bytes) (byte : Nat) {bit : Nat} (h : bit < 8) :
    flipBit p byte bit = invertBit p (8 * byte + (7 - bit)) := by
  have hmask : ∀ bit < 8, (1 : Byte) <<< bit = (0x80 : Byte) >>> (7 - bit) := by decide
  have hdiv : (8 * byte + (7 - bit)) / 8 = byte := by omega
  have hmod : (8 * byte + (7 - bit)) % 8 = 7 - bit := by omega
  rw [flipBit, invertBit, hdiv, hmod, hmask bit h]

/-- R201: one flip takes the byte and the bit that are drawn. -/
theorem flipDrawn_of_draws {p : Bytes} {s : State} {byte bit : Nat} {rest : List Nat} (hbyte : byte < p.length)
    (hbit : bit < 8) (hd : s.draws = byte :: bit :: rest) : flipDrawn p s = flipBit p byte bit := by
  have hd' : s.afterDraw.draws = bit :: rest := by rw [State.afterDraw_draws, hd, List.tail_cons]
  rw [flipDrawn, State.drawValue_of_draws hd (Nat.le_sub_one_of_lt hbyte),
    State.drawValue_of_draws hd' (Nat.le_of_lt_succ hbit)]

/-- R201: with `two` drawn as 0 the injector makes one flip. -/
theorem receiveInjection_one_flip {p : Bytes} {s : State} {byte bit : Nat} {rest : List Nat} (he : s.emuEn = true)
    (hbyte : byte < p.length) (hbit : bit < 8) (hd : s.draws = 0 :: byte :: bit :: rest) :
    receiveInjection p s = ⟨invertBit p (8 * byte + (7 - bit)), 1, { s with draws := rest }⟩ := by
  have htwo : s.drawBit = false := State.drawBit_eq_false.2 (State.drawValue_of_draws hd (Nat.zero_le _))
  have hd' : s.afterDraw.draws = byte :: bit :: rest := by rw [State.afterDraw_draws, hd, List.tail_cons]
  have hstate : s.afterDraw.afterDraw.afterDraw = { s with draws := rest } := by simp [State.afterDraw, hd]
  rw [receiveInjection, if_pos he, inject, if_neg (Nat.ne_zero_of_lt hbyte)]
  dsimp only
  rw [htwo, if_neg Bool.false_ne_true, flipDrawn_of_draws hbyte hbit hd', flipBit_eq_invertBit p byte hbit, hstate]

/-- The record of a frame that arrives undamaged (R188). -/
def cleanRecord (f : Frame) : FrameRecord :=
  ⟨f.total, f.sequence, if f.payload = [] then .emptyPayload else .noError, 0, decide (f.sequence = f.total), f.payload⟩

/-- R188: an undamaged frame delivered whole, with nothing injected. -/
theorem exec_rxDeliver_clean {total sequence : Byte} {p : Bytes} {s : State} (hp : p.length ≤ 64) (hrxb : s.rxb = [])
    (hlegal : s.params.legal = true) (ht : Transparent (wireFrame (buildFrame total sequence p)))
    (hclean : s.emuEn = false ∨ p = []) :
    exec (.rxDeliver (wireFrame (buildFrame total sequence p))) s = .next
      { s with
        evTrace := s.evTrace ++ [.frameDelivered (cleanRecord (buildFrame total sequence p))]
        response := [0x00, 0, 0, 0, 0, 0, 0, 1] ++ (cleanRecord (buildFrame total sequence p)).fields } := by
  have hinj : receiveInjection (buildFrame total sequence p).payload s = ⟨p, 0, s⟩ :=
    receiveInjection_of_bypass_or_nil hclean
  have hrec : receiveFrame (buildFrame total sequence p) s = cleanRecord (buildFrame total sequence p) := by
    rw [receiveFrame, hinj, buildFrame, fecCorrect_fecEncode]
    rfl
  rw [exec_rxDeliver_whole (buildFrame_splits total sequence hp) ht hrxb hlegal, hrec, hinj]

/-- R203: a frame in which the injector inverts one bit comes out repaired. -/
theorem exec_rxDeliver_one_flip {total sequence : Byte} {p : Bytes} {s : State} {byte bit : Nat} {rest : List Nat}
    (hp : p.length ≤ 64) (hrxb : s.rxb = []) (hlegal : s.params.legal = true)
    (ht : Transparent (wireFrame (buildFrame total sequence p))) (he : s.emuEn = true)
    (hmode : s.params.parityMode = .received) (hbyte : byte < p.length) (hbit : bit < 8)
    (hd : s.draws = 0 :: byte :: bit :: rest) :
    exec (.rxDeliver (wireFrame (buildFrame total sequence p))) s = .next
      { s with
        draws := rest
        evTrace := s.evTrace ++ [.frameDelivered ⟨total, sequence, .corrected, 1, decide (sequence = total), p⟩]
        response := [0x00, 0, 0, 0, 0, 0, 0, 1] ++
          FrameRecord.fields ⟨total, sequence, .corrected, 1, decide (sequence = total), p⟩ } := by
  have hinj := receiveInjection_one_flip he hbyte hbit hd
  have hrec : receiveFrame (buildFrame total sequence p) s
      = ⟨total, sequence, .corrected, 1, decide (sequence = total), p⟩ := by
    rw [receiveFrame, buildFrame, hinj, hmode, fecCorrect_invertBit (by omega)]
    rfl
  rw [exec_rxDeliver_whole (buildFrame_splits total sequence hp) ht hrxb hlegal, hrec, buildFrame, hinj]

/-- Settles O37: the scan by `exec_rxDeliver_of_no_frame` and `exec_rxDeliver_then_rest`, with the fate of the frame
read off its unwrapping; the whole frames by `exec_rxDeliver_clean` and `exec_rxDeliver_one_flip`. -/
theorem deliverProcessesFrames : Obligations.DeliverProcessesFrames := by
  refine ⟨fun chunk s c buf runs before resync hlen hstrip hbuf hfit hbefore hresync => ?scan,
    fun total sequence p s hp hrxb hlegal ht => ⟨fun hclean => ?clean,
      fun byte bit rest he hmode hbyte hbit hd => ?flip⟩⟩
  case scan =>
    rw [← resyncEvents_resyncs] at hbefore
    rw [← flagByte_resyncs] at hresync
    subst hbefore hresync
    refine ⟨exec_rxDeliver_of_no_frame hlen hstrip hbuf hfit, fun st stop w hframe hw => ?_⟩
    have hrest := exec_rxDeliver_then_rest hlen hstrip hbuf hfit hframe hw
    refine ⟨fun e he => ?dropped, fun u f inj r outcome hu hf hinj hr hout => ?delivered⟩
    case dropped =>
      have hunwrap := unwrapFrame_eq_error_iff.2 he
      rw [processFrame_of_error hunwrap, afterFrame_of_error hunwrap] at hrest
      exact hrest
    case delivered =>
      have hunwrap := unwrapFrame_of_ok hu hf
      subst hinj hr
      rw [processFrame_of_ok hunwrap, afterFrame_of_ok hunwrap] at hrest
      obtain ⟨t, events, dropped, frames, records, hnil, hchunk⟩ := hrest
      refine ⟨t, events, dropped, frames, records, hnil, ?_⟩
      rw [← FecOutcome.code_eq hout, FrameRecord.append_fields]
      exact hchunk
  case clean =>
    rw [exec_rxDeliver_clean hp hrxb hlegal ht hclean, cleanRecord, FrameRecord.fields_eq, apply_ite FecOutcome.code]
    rfl
  case flip =>
    rw [exec_rxDeliver_one_flip hp hrxb hlegal ht he hmode hbyte hbit hd, FrameRecord.fields_eq]
    rfl

end Sys2Proof.Machine
end

section
/-! PROOFS. A message through the Segmenter, the channel and the Reassembler (spec/43_segment_reassemble.md R171, R186,
R188): it comes back whole (O38). -/

namespace Sys2Proof.Machine

/-! ### Deliveries, one after another -/

theorem coreRun_succ {M : Host.Core} {s t : M.State} (h : M.step s = .next t) (n : Nat) :
    M.run (n + 1) s = M.run n t := by
  rw [Host.Core.run, h]

theorem runCore_succ {s t : State} (h : step s = .next t) (n : Nat) : runCore (n + 1) s = runCore n t :=
  coreRun_succ (M := Sys2Proof.core) h n

/-- A frame whose FCS is that of its payload, and which arrives whole where it is delivered whole (R188). -/
structure Frame.Deliverable (f : Frame) : Prop where
  built : f = buildFrame f.total f.sequence f.payload
  payloadFits : f.payload.length ≤ 64
  transparent : Transparent (wireFrame f)

theorem exec_rxDeliver_deliverable {f : Frame} {s : State} (hf : f.Deliverable) (hrxb : s.rxb = [])
    (hlegal : s.params.legal = true) (he : s.emuEn = false) :
    exec (.rxDeliver (wireFrame f)) s = .next
      { s with
        evTrace := s.evTrace ++ [.frameDelivered (cleanRecord f)]
        response := [0x00, 0, 0, 0, 0, 0, 0, 1] ++ (cleanRecord f).fields } := by
  obtain ⟨hbuilt, hp, ht⟩ := hf
  rw [hbuilt] at ht ⊢
  exact exec_rxDeliver_clean hp hrxb hlegal ht (.inl he)

theorem wireFrame_length_le {f : Frame} (hf : f.Deliverable) : (wireFrame f).length ≤ 65535 := by
  have hfcs : f.fcs.length ≤ 2 := by
    rw [hf.built]
    exact fecEncode_length_le hf.payloadFits
  exact (stuffedInRange_iff.1 (wireFrame_inRange hf.payloadFits hfcs)).2.trans (by decide)

/-- R188: frames delivered whole and in order, with nothing injected, are recorded in that order. -/
theorem runCore_deliveries (frames : List Frame) {s : State} (hf : ∀ f ∈ frames, f.Deliverable) (hrxb : s.rxb = [])
    (hlegal : s.params.legal = true) (he : s.emuEn = false) :
    ∃ t, runCore frames.length { s with sched := frames.map fun f => .channel (wireFrame f) } = .next t
      ∧ t.rxb = [] ∧ t.evTrace = s.evTrace ++ (frames.map cleanRecord).map .frameDelivered := by
  induction frames generalizing s with
  | nil => exact ⟨_, rfl, hrxb, (List.append_nil _).symm⟩
  | cons f frames ih =>
    obtain ⟨hfirst, hrest⟩ := List.forall_mem_cons.1 hf
    have hstep := (channelTurnIsRxDeliver s (frames.map fun f => .channel (wireFrame f)) (wireFrame f)
      (wireFrame_length_le hfirst)).trans (exec_rxDeliver_deliverable hfirst hrxb hlegal he)
    obtain ⟨t, hrun, ht, hev⟩ := ih
      (s := { s with
        evTrace := s.evTrace ++ [.frameDelivered (cleanRecord f)]
        response := [0x00, 0, 0, 0, 0, 0, 0, 1] ++ (cleanRecord f).fields }) hrest hrxb hlegal he
    refine ⟨t, (runCore_succ hstep frames.length).trans hrun, ht, ?_⟩
    rw [hev, List.append_assoc]
    rfl

/-! ### The host's reconstruction -/

/-- R186: records that close no message are appended to what is pending. -/
theorem foldl_take_of_not_last {recs : List FrameRecord} (h : ∀ r ∈ recs, r.last = false) (messages : List Bytes)
    (pending : Bytes) :
    recs.foldl Reconstruction.take ⟨messages, pending⟩
      = ⟨messages, pending ++ (recs.map FrameRecord.payload).flatten⟩ := by
  induction recs generalizing pending with
  | nil => rw [List.foldl_nil, List.map_nil, List.flatten_nil, List.append_nil]
  | cons r recs ih =>
    obtain ⟨hr, hrest⟩ := List.forall_mem_cons.1 h
    have htake : Reconstruction.take ⟨messages, pending⟩ r = ⟨messages, pending ++ r.payload⟩ := by
      rw [Reconstruction.take, hr, if_neg Bool.false_ne_true]
    rw [List.foldl_cons, htake, ih hrest, List.map_cons, List.flatten_cons, List.append_assoc]

/-- R186: records of which the last alone closes a message are one message. -/
theorem reconstruct_concat {recs : List FrameRecord} {r : FrameRecord} (h : ∀ r ∈ recs, r.last = false)
    (hr : r.last = true) :
    reconstruct (recs ++ [r]) = ⟨[((recs ++ [r]).map FrameRecord.payload).flatten], []⟩ := by
  rw [reconstruct, List.foldl_append, foldl_take_of_not_last h, List.foldl_cons, List.foldl_nil, Reconstruction.take,
    hr, if_pos rfl, List.map_append, List.flatten_append]
  simp

/-! ### The frames of a message -/

theorem segment_deliverable {m : Bytes} (ht : ∀ f ∈ segment m, Transparent (wireFrame f)) {f : Frame}
    (hf : f ∈ segment m) : f.Deliverable := by
  obtain ⟨j, -, hj⟩ := List.mem_map.1 hf
  refine ⟨?_, ?_, ht f hf⟩ <;> subst hj
  · rfl
  · exact segmentPayload_length m (j + 1)

/-- R171: up to 16320 bytes the count fits its byte. -/
theorem frameCount_le {len : Nat} (h : len ≤ 16320) : frameCount len ≤ 255 := by
  rw [frameCount_eq]
  omega

/-- Below 256 a number is its byte. -/
theorem ofNat_byte_inj {a b : Nat} (ha : a < 256) (hb : b < 256) : BitVec.ofNat 8 a = BitVec.ofNat 8 b ↔ a = b := by
  rw [← BitVec.toNat_inj, BitVec.toNat_ofNat, BitVec.toNat_ofNat, Nat.mod_eq_of_lt ha, Nat.mod_eq_of_lt hb]

/-- R171, R181: the last frame of a message is the one whose record says `last`. -/
theorem segmentRecord_last {m : Bytes} (hm : m.length ≤ 16320) {j : Nat} (hj : j < frameCount m.length) :
    (cleanRecord (segmentFrame m (j + 1))).last = decide (j + 1 = frameCount m.length) := by
  have hn := frameCount_le hm
  exact decide_eq_decide.2 (ofNat_byte_inj (by omega) (by omega))

/-- R188: the records of all frames of a message make the message. -/
theorem reconstruct_segment {m : Bytes} (hm : m.length ≤ 16320) :
    reconstruct ((segment m).map cleanRecord) = ⟨[m], []⟩ := by
  obtain ⟨k, hk⟩ : ∃ k, frameCount m.length = k + 1 :=
    Nat.exists_eq_succ_of_ne_zero (by rw [frameCount_eq]; omega)
  have hpayloads : (((segment m).map cleanRecord).map FrameRecord.payload).flatten = m := by
    have hmap : ((segment m).map cleanRecord).map FrameRecord.payload = segmentPayloads m := by
      rw [segment, List.map_map, List.map_map]; rfl
    rw [hmap, flatten_segmentPayloads]
  have hconcat : (segment m).map cleanRecord
      = ((List.range k).map fun j => cleanRecord (segmentFrame m (j + 1)))
        ++ [cleanRecord (segmentFrame m (k + 1))] := by
    rw [segment, hk, List.map_map, List.range_succ, List.map_append]; rfl
  have hopen : ∀ r ∈ (List.range k).map fun j => cleanRecord (segmentFrame m (j + 1)), r.last = false := by
    intro r hr
    obtain ⟨j, hj, rfl⟩ := List.mem_map.1 hr
    have hjk := List.mem_range.1 hj
    rw [segmentRecord_last hm (by omega), decide_eq_false (by omega)]
  have hclose : (cleanRecord (segmentFrame m (k + 1))).last = true := by
    rw [segmentRecord_last hm (by omega), decide_eq_true hk.symm]
  rw [hconcat] at hpayloads ⊢
  rw [reconstruct_concat hopen hclose, hpayloads]

/-- Settles O38: each frame of the message arrives as it was built (`runCore_deliveries`), and the records make the
message (`reconstruct_segment`). -/
theorem messageReassembles : Obligations.MessageReassembles := by
  intro m s hm hrxb he hlegal ht
  obtain ⟨t, hrun, hempty, hev⟩ :=
    runCore_deliveries (segment m) (fun _ hf => segment_deliverable ht hf) hrxb hlegal he
  exact ⟨t, (segment m).map cleanRecord, hrun, hempty, hev, reconstruct_segment hm⟩

end Sys2Proof.Machine
end

section
/-! PROOFS. The Fault Injector (spec/44_fault_injector.md): `INJ.INJECT` makes one or two flips inside the payload, none
on the empty one (O39), and makes the flips that the environment draws (O40). -/

namespace Sys2Proof.Machine

/-! ### One flip -/

/-- The bit that the next flip inverts (R201, R202), counted as `invertBit` counts: from the first byte, and in each byte
from the most significant bit. -/
def drawnPosition (p : Bytes) (s : State) : Nat := 8 * s.drawValue (p.length - 1) + (7 - s.afterDraw.drawValue 7)

theorem drawnPosition_lt {p : Bytes} (hp : p ≠ []) (s : State) : drawnPosition p s < 8 * p.length := by
  have hlen := List.length_pos_of_ne_nil hp
  have hbyte := s.drawValue_le (p.length - 1)
  rw [drawnPosition]
  omega

theorem flipDrawn_eq_invertBit (p : Bytes) (s : State) : flipDrawn p s = invertBit p (drawnPosition p s) :=
  flipBit_eq_invertBit p _ (Nat.lt_succ_of_le (s.afterDraw.drawValue_le 7))

@[simp] theorem flipDrawn_length (p : Bytes) (s : State) : (flipDrawn p s).length = p.length := List.length_modify ..

/-- The second flip of two draws its position in the payload that the first one left, which is as long. -/
theorem drawnPosition_flipDrawn_lt {p : Bytes} (hp : p ≠ []) (s u : State) :
    drawnPosition (flipDrawn p s) u < 8 * p.length := by
  have hne : flipDrawn p s ≠ [] := List.ne_nil_of_length_pos (by
    rw [flipDrawn_length]
    exact List.length_pos_of_ne_nil hp)
  simpa using drawnPosition_lt hne u

/-! ### `inject`, by the payload and the draw `two` -/

theorem inject_nil (s : State) : inject [] s = ⟨[], 0, s⟩ := rfl

theorem inject_of_one {p : Bytes} {s : State} (hp : p ≠ []) (htwo : s.drawBit = false) :
    inject p s = ⟨flipDrawn p s.afterDraw, 1, s.afterDraw.afterDraw.afterDraw⟩ := by
  rw [inject, if_neg (mt List.length_eq_zero_iff.1 hp)]
  exact if_neg (Bool.eq_false_iff.1 htwo)

theorem inject_of_two {p : Bytes} {s : State} (hp : p ≠ []) (htwo : s.drawBit = true) :
    inject p s =
      ⟨flipDrawn (flipDrawn p s.afterDraw) s.afterDraw.afterDraw.afterDraw, 2,
        s.afterDraw.afterDraw.afterDraw.afterDraw.afterDraw⟩ := by
  rw [inject, if_neg (mt List.length_eq_zero_iff.1 hp)]
  exact if_pos htwo

/-! ### `inject`, by the answers of the environment -/

theorem State.afterDraw_of_answer (s : State) (v : Nat) (rest : List Nat) :
    State.afterDraw { s with draws := v :: rest } = { s with draws := rest } := rfl

theorem flipDrawn_of_answers {p : Bytes} {byte bit : Nat} (hbyte : byte < p.length) (hbit : bit < 8) (s : State)
    (rest : List Nat) :
    flipDrawn p { s with draws := byte :: bit :: rest } = invertBit p (8 * byte + (7 - bit)) := by
  rw [flipDrawn_of_draws hbyte hbit rfl, flipBit_eq_invertBit p byte hbit]

theorem inject_of_answers_one {p : Bytes} {byte bit : Nat} (hbyte : byte < p.length) (hbit : bit < 8) (s : State)
    (rest : List Nat) :
    inject p { s with draws := 0 :: byte :: bit :: rest }
      = ⟨invertBit p (8 * byte + (7 - bit)), 1, { s with draws := rest }⟩ := by
  have hp : p ≠ [] := List.ne_nil_of_length_pos (Nat.zero_lt_of_lt hbyte)
  have htwo : State.drawBit { s with draws := 0 :: byte :: bit :: rest } = false := rfl
  simp only [inject_of_one hp htwo, State.afterDraw_of_answer, flipDrawn_of_answers hbyte hbit]

theorem inject_of_answers_two {p : Bytes} {byte1 bit1 byte2 bit2 : Nat} (hbyte1 : byte1 < p.length) (hbit1 : bit1 < 8)
    (hbyte2 : byte2 < p.length) (hbit2 : bit2 < 8) (s : State) (rest : List Nat) :
    inject p { s with draws := 1 :: byte1 :: bit1 :: byte2 :: bit2 :: rest }
      = ⟨invertBit (invertBit p (8 * byte1 + (7 - bit1))) (8 * byte2 + (7 - bit2)), 2, { s with draws := rest }⟩ := by
  have hp : p ≠ [] := List.ne_nil_of_length_pos (Nat.zero_lt_of_lt hbyte1)
  have htwo : State.drawBit { s with draws := 1 :: byte1 :: bit1 :: byte2 :: bit2 :: rest } = true := rfl
  have hbyte2' : byte2 < (invertBit p (8 * byte1 + (7 - bit1))).length := by rwa [invertBit_length]
  simp only [inject_of_two hp htwo, State.afterDraw_of_answer, flipDrawn_of_answers hbyte1 hbit1,
    flipDrawn_of_answers hbyte2' hbit2]

/-! ### `INJ.INJECT` -/

/-- R84, R201: the answer is the number of flips and the payload they leave. -/
theorem exec_injInject {p : Bytes} (h : p.length ≤ 64) (s : State) :
    exec (.injInject p) s = .next
      { (inject p s).state with
        response :=
          0x00 :: BitVec.ofNat 8 (inject p s).errorCount :: BitVec.ofNat 8 p.length :: (inject p s).payload } := by
  rw [← inject_length p s]
  simp only [exec, execInjInject, payloadInRange_iff.2 h, State.guarded_true]
  rfl

/-- Settles O39: the answer of `exec_injInject`, by the payload and, where it is not empty, by the draw `two`; each flip
inverts the bit at its `drawnPosition`. -/
theorem injectFlipsOneOrTwoBits : Obligations.InjectFlipsOneOrTwoBits := by
  intro p s h
  refine ⟨_, exec_injInject h s, fun hnil => ?empty, fun hp => ⟨?frame, ?flips⟩⟩
  case empty =>
    subst hnil
    rfl
  case frame => rw [inject_state]
  case flips =>
    have hfirst := drawnPosition_lt hp s.afterDraw
    cases htwo : s.drawBit with
    | false =>
      refine .inl ⟨_, hfirst, ?_⟩
      rw [inject_of_one hp htwo, ← flipDrawn_eq_invertBit]
      rfl
    | true =>
      refine .inr ⟨_, hfirst, _, drawnPosition_flipDrawn_lt hp s.afterDraw s.afterDraw.afterDraw.afterDraw, ?_⟩
      rw [inject_of_two hp htwo, ← flipDrawn_eq_invertBit, ← flipDrawn_eq_invertBit]
      rfl

/-- Settles O40: the answer of `exec_injInject`, with the flips that the answers name. -/
theorem injectFollowsItsDraws : Obligations.InjectFollowsItsDraws := by
  intro p s byte1 bit1 byte2 bit2 rest h hbyte1 hbit1 hbyte2 hbit2
  constructor
  · rw [exec_injInject h, inject_of_answers_one hbyte1 hbit1]
    rfl
  · rw [exec_injInject h, inject_of_answers_two hbyte1 hbit1 hbyte2 hbit2]
    rfl

end Sys2Proof.Machine
end

section
/-! PROOFS. The operations of the MAC (spec/45_mac.md R211 to R215, R218, R219): the accepted send (O41), the reads of
the fields (O44), the writes of the mode and of the statistics (O45), and the backoff delay (O46). -/

namespace Sys2Proof.Machine

/-- Settles O41: `exec_macSend_emulation` in each of the three states R24 calls quiet. -/
theorem sendLatchesFrame : Obligations.SendLatchesFrame := by
  intro w s h1 h2 hq he
  rw [exec_macSend_emulation (stuffedInRange_iff.2 ⟨h1, h2⟩) (MacState.busy_eq_false_iff.2 hq) he]
  rfl

/-! ### Reads -/

/-- R24: the codes of the states, in the order of the rule. -/
theorem MacState.code_spec (m : MacState) :
    (m = .idle ∧ m.code = 0) ∨ (m = .sense ∧ m.code = 1) ∨ (m = .transmit ∧ m.code = 2) ∨ (m = .success ∧ m.code = 3)
      ∨ (m = .collided ∧ m.code = 4) ∨ (m = .backoff ∧ m.code = 5) ∨ (m = .giveUp ∧ m.code = 6) := by
  cases m <;> decide

/-- R83: the four bytes of a 32-bit field, the high byte first, are its value. -/
theorem be32_value (c : BitVec 32) :
    (((BitVec.ofNat 8 (c.toNat / 16777216)).toNat * 256 + (BitVec.ofNat 8 (c.toNat / 65536)).toNat) * 256
      + (BitVec.ofNat 8 (c.toNat / 256)).toNat) * 256 + (BitVec.ofNat 8 c.toNat).toNat = c.toNat := by
  have hlt := c.isLt
  simp only [BitVec.toNat_ofNat]
  omega

/-- Settles O44: both answers by definition; the two bytes of the countdown and the four of the count are their
fields. -/
theorem statusAndStatsRead : Obligations.StatusAndStatsRead := by
  intro s
  have hattempt : (BitVec.ofNat 8 s.attempt.toNat).toNat = s.attempt.toNat := by
    rw [BitVec.toNat_ofNat]
    omega
  have htxIdx : BitVec.ofNat 8 s.txIdx.toNat = s.txIdx := by rw [BitVec.ofNat_toNat, BitVec.setWidth_eq]
  have hcount : s.backoffCnt.toNat < 65536 := by omega
  exact ⟨_, _, _, _, _, _, _, _, _, rfl, s.macState.code_spec, hattempt, htxIdx,
    u16_be16 hcount, rfl, be32_value s.collisionCount⟩

/-! ### Writes -/

theorem exec_macSetEmu {a : Byte} (ha : a.toNat ≤ 1) (s : State) :
    exec (.macSetEmu a) s = .next ((s.setEmu (a == 1)).answer []) := by
  simp only [exec, execMacSetEmu, flagInRange_iff.2 ha, State.guarded_true]

/-- Settles O45: `exec_macSetEmu` for the two operands in range, the refusal of step 4 for the others, and the
statistics by definition. -/
theorem setEmuAndStatsReset : Obligations.SetEmuAndStatsReset := by
  intro s
  refine ⟨exec_macSetEmu (by decide) s, exec_macSetEmu (by decide) s, fun a ha => ?_, rfl⟩
  have hw : (Instr.macSetEmu a).wellFormed = false := decide_eq_false (Nat.not_le.2 ha)
  exact exec_of_not_wellFormed hw s

/-! ### The backoff delay -/

/-- R218: a delay fits a 16-bit field. -/
theorem delay_lt {a v : Nat} (h : v ≤ bmax a) : v < 65536 :=
  (h.trans (bmax_le a)).trans_lt (by decide)

/-- Settles O46: the answer is the draw, which is in its range whatever the environment answers (`State.drawValue_le`)
and is the environment's answer where that is in the range (`State.drawValue_of_draws`). -/
theorem backoffDelayBound : Obligations.BackoffDelayBound := by
  intro a s
  have hbound : s.drawValue (bmax a.toNat) ≤ bmax a.toNat := s.drawValue_le _
  refine ⟨⟨_, _, s.afterDraw, rfl, rfl, (u16_be16 (delay_lt hbound)).trans_le hbound⟩, fun r rest hr => ?_⟩
  have hdraw : State.drawValue { s with draws := r :: rest } (bmax a.toNat) = r := State.drawValue_of_draws rfl hr
  rw [exec, execMacBkdelay, hdraw, State.afterDraw_of_answer]
  rfl

end Sys2Proof.Machine
end

section
/-! PROOFS. The steps of the sequencer and the slot tick (spec/45_mac.md R210, R220 to R227, R235): the `SENSE` step
(O47), the tick and the expiry (O50), their independence of the mode (O51), and the transitions of R210 (O54). -/

namespace Sys2Proof.Machine

/-! ### The `SENSE` step -/

/-- `MAX_ATTEMPTS` in the 5 bits of the attempt. -/
theorem attempt_eq_16_iff {s : State} : s.attempt = 16 ↔ s.attempt.toNat = 16 := BitVec.toNat_eq

/-- R221, with the two draws of the step in the order of its pseudocode. -/
theorem senseStep_eq (s : State) :
    senseStep s =
      if s.attempt = 16 then { s with macState := .giveUp, evTrace := s.evTrace ++ [.txDone false] }
      else if s.drawValue 1 = 1 then
        { s.afterDraw.afterDraw with
          macState := .backoff
          backoffCnt := BitVec.ofNat 10 (s.afterDraw.drawValue (bmax s.attempt.toNat))
          evTrace := s.evTrace ++ [.mediumBusy s.attempt] }
      else { s.afterDraw with txIdx := 0, macState := .transmit } := by
  rcases senseStep_cases s with ⟨ha, h⟩ | ⟨ha, hd, h⟩ | ⟨ha, hd, h⟩ <;> rw [h]
  case inl =>
    rw [if_pos (attempt_eq_16_iff.2 ha)]
    rfl
  case inr.inl =>
    rw [if_neg (mt attempt_eq_16_iff.1 ha), if_pos (State.drawBit_eq_true.1 hd)]
    rfl
  case inr.inr =>
    have hidle : ¬ s.drawValue 1 = 1 := by rw [State.drawBit_eq_false.1 hd]; decide
    rw [if_neg (mt attempt_eq_16_iff.1 ha), if_neg hidle]

/-- Settles O47: `senseStep_eq` after the scheduled turn. -/
theorem senseStepFollowsR221 : Obligations.SenseStepFollowsR221 := by
  intro s rest hm
  have hstep : step { s with sched := .sequencer :: rest } = .next (senseStep { s with sched := rest }) :=
    sequencerStep_sense hm
  rw [hstep, senseStep_eq]
  rfl

/-! ### The tick and the expiry -/

/-- Settles O50: the tick by definition, the turn in `BACKOFF` by `sequencerStep_backoff`, and the turn of a quiet MAC
by `sequencerStep_of_quiet`. -/
theorem tickAndExpiryFollowR225AndR227 : Obligations.TickAndExpiryFollowR225AndR227 := by
  intro s rest
  exact ⟨rfl, sequencerStep_backoff (s := { s with sched := rest }),
    fun hq => sequencerStep_of_quiet (s := { s with sched := rest }) (MacState.busy_eq_false_iff.2 hq)⟩

/-! ### The mode of a frame in flight -/

theorem senseStep_setEmu (s : State) (flag : Bool) : senseStep (s.setEmu flag) = (senseStep s).setEmu flag := by
  simp only [senseStep_eq, apply_ite (State.setEmu · flag)]
  rfl

theorem byteWritten_setEmu (s : State) (flag : Bool) :
    (s.setEmu flag).byteWritten = s.byteWritten.setEmu flag := by
  unfold State.byteWritten
  rw [apply_ite (State.setEmu · flag)]
  rfl

/-- R222: the trial comes before the frame is looked at. -/
theorem transmitStep_of_trial {s : State} (h : s.drawBit = true) :
    transmitStep s = .next (s.afterDraw.collide .trial) := by
  rw [transmitStep, if_pos h]

theorem transmitStep_setEmu {s t : State} (h : transmitStep s = .next t) (flag : Bool) :
    transmitStep (s.setEmu flag) = .next (t.setEmu flag) := by
  rcases transmitStep_cases s with ⟨hd, ht⟩ | ⟨-, -, ht⟩ | ⟨b, -, hb, -⟩
  case inl =>
    rw [ht] at h
    cases h
    exact transmitStep_of_trial (s := s.setEmu flag) hd
  case inr.inl =>
    rw [ht] at h
    cases h
  case inr.inr =>
    rw [transmitStep_of_byte hb] at h
    cases h
    rw [transmitStep_of_byte (s := s.setEmu flag) hb]
    simp only [apply_ite (State.setEmu · flag), ← byteWritten_setEmu]
    rfl

theorem collidedStep_setEmu (s : State) (flag : Bool) :
    collidedStep (s.setEmu flag) = (collidedStep s).setEmu flag := by
  rw [collidedStep_eq, collidedStep_eq]
  rfl

theorem sequencerStep_setEmu {s t : State} (h : sequencerStep s = .next t) (flag : Bool) :
    sequencerStep (s.setEmu flag) = .next (t.setEmu flag) := by
  cases hm : s.macState with
  | sense =>
    rw [sequencerStep_sense hm] at h
    cases h
    rw [sequencerStep_sense (s := s.setEmu flag) hm, senseStep_setEmu]
  | transmit =>
    rw [sequencerStep_transmit hm] at h
    rw [sequencerStep_transmit (s := s.setEmu flag) hm]
    exact transmitStep_setEmu h flag
  | collided =>
    rw [sequencerStep_collided hm] at h
    cases h
    rw [sequencerStep_collided (s := s.setEmu flag) hm, collidedStep_setEmu]
  | backoff =>
    rw [sequencerStep_backoff hm] at h
    cases h
    rw [sequencerStep_backoff (s := s.setEmu flag) hm, apply_ite (State.setEmu · flag)]
    rfl
  | idle | success | giveUp =>
    have hq : s.macState.busy = false := by rw [hm]; rfl
    rw [sequencerStep_of_quiet hq] at h
    cases h
    exact sequencerStep_of_quiet (s := s.setEmu flag) hq

theorem slotTick_setEmu (s : State) (flag : Bool) : slotTick (s.setEmu flag) = (slotTick s).setEmu flag := by
  unfold slotTick
  rw [apply_ite (State.setEmu · flag)]
  rfl

/-- Settles O51: neither turn writes the flag (`sequencerStep_keeps`, `slotTick_keeps`), and each commutes with
setting it (`sequencerStep_setEmu`, `slotTick_setEmu`). -/
theorem frameInFlightIgnoresEmuFlag : Obligations.FrameInFlightIgnoresEmuFlag := by
  rintro s flag turn t (rfl | rfl) h
  · exact ⟨(sequencerStep_keeps h).emuEn, sequencerStep_setEmu h flag⟩
  · cases h
    exact ⟨(slotTick_keeps s).emuEn, congrArg _ (slotTick_setEmu s flag)⟩

/-! ### The transitions of R210 -/

/-- The ten pairs of R210. -/
def transitionsOfR210 : List (MacState × MacState) :=
  [(.idle, .sense), (.success, .sense), (.giveUp, .sense), (.sense, .giveUp), (.sense, .backoff),
    (.sense, .transmit), (.transmit, .collided), (.transmit, .success), (.collided, .backoff), (.backoff, .sense)]

/-- The MAC stays in its state, or makes one of the moves of R210. -/
def MovesByR210 (m n : MacState) : Prop := n = m ∨ (m, n) ∈ transitionsOfR210

theorem MovesByR210.moved {s t : State} {m n : MacState} (hs : s.macState = m) (ht : t.macState = n)
    (h : (m, n) ∈ transitionsOfR210) : MovesByR210 s.macState t.macState := by
  rw [hs, ht]
  exact .inr h

theorem senseStep_moves {s : State} (hm : s.macState = .sense) : MovesByR210 s.macState (senseStep s).macState := by
  rcases senseStep_cases s with ⟨-, h⟩ | ⟨-, -, h⟩ | ⟨-, -, h⟩ <;> rw [h]
  case inl => exact .moved (n := .giveUp) hm rfl (by decide)
  case inr.inl => exact .moved (n := .backoff) hm rfl (by decide)
  case inr.inr => exact .moved (n := .transmit) hm rfl (by decide)

theorem byteWritten_moves {s : State} (hm : s.macState = .transmit) :
    MovesByR210 s.macState s.byteWritten.macState := by
  rcases byteWritten_cases s with ⟨-, h⟩ | ⟨-, h⟩ <;> rw [h]
  case inl => exact .moved (n := .success) hm rfl (by decide)
  case inr => exact .inl rfl

theorem transmitStep_moves {s t : State} (hm : s.macState = .transmit) (h : transmitStep s = .next t) :
    MovesByR210 s.macState t.macState := by
  rcases transmitStep_cases s with ⟨-, ht⟩ | ⟨-, -, ht⟩ | ⟨b, -, -, ⟨-, ht⟩ | ⟨-, ht⟩⟩ <;> rw [ht] at h <;> cases h
  case inr.inr.inl => exact byteWritten_moves (s := s.afterDraw.chanWrite [b]) hm
  all_goals exact .moved (n := .collided) hm rfl (by decide)

theorem sequencerStep_moves {s t : State} (h : sequencerStep s = .next t) : MovesByR210 s.macState t.macState := by
  rcases sequencerStep_cases s with ⟨hm, hs⟩ | ⟨hm, hs⟩ | ⟨hm, hs⟩ | ⟨hm, -, hs⟩ | ⟨-, hs⟩ <;> rw [hs] at h
  case inl => cases h; exact senseStep_moves hm
  case inr.inl => exact transmitStep_moves hm h
  case inr.inr.inl => cases h; exact .moved (n := .backoff) hm rfl (by decide)
  case inr.inr.inr.inl => cases h; exact .moved (n := .sense) hm rfl (by decide)
  case inr.inr.inr.inr => cases h; exact .inl rfl

theorem slotTick_macState (s : State) : (slotTick s).macState = s.macState := by
  rcases slotTick_cases s with ⟨-, -, h⟩ | ⟨-, h⟩ <;> rw [h]

/-- R211: an accepted send enters `SENSE` from one of the three quiet states. -/
theorem moves_of_quiet {m : MacState} (hq : m.busy = false) : MovesByR210 m .sense := by
  rcases MacState.busy_eq_false_iff.1 hq with rfl | rfl | rfl <;> exact .inr (by decide)

theorem exec_moves {i : Instr} {s t : State} (h : exec i s = .next t) : MovesByR210 s.macState t.macState := by
  rcases exec_cases i s with ⟨r, he⟩ | ⟨c, -, -, he⟩ | ⟨p, r, -, he⟩ | ⟨w, -, -, -, hq, -, he⟩ | ⟨w, e, -, -, -, -, he⟩
    | ⟨a, -, he⟩ | ⟨-, he⟩ | ⟨a, r, -, he⟩ <;> rw [he] at h <;> cases h
  case inr.inl =>
    obtain ⟨events, hframe⟩ := deliver_frame c s
    rw [hframe]
    exact .inl rfl
  case inr.inr.inl =>
    rw [inject_state]
    exact .inl rfl
  case inr.inr.inr.inl => exact moves_of_quiet hq
  all_goals exact .inl rfl

theorem runTurn_moves {turn : Turn} {s t : State} (hne : turn ≠ .reset) (h : runTurn turn s = .next t) :
    MovesByR210 s.macState t.macState := by
  rcases runTurn_cases turn s with ⟨e, hr⟩ | ⟨p, i, -, -, hr⟩ | ⟨c, -, -, hr⟩ | ⟨-, hr⟩ | ⟨-, hr⟩ | ⟨hreset, -⟩
  case inl => rw [hr] at h; cases h; exact .inl rfl
  case inr.inl => exact exec_moves (hr ▸ h)
  case inr.inr.inl =>
    rw [hr] at h
    cases h
    obtain ⟨events, hframe⟩ := deliver_frame c s
    rw [hframe]
    exact .inl rfl
  case inr.inr.inr.inl => exact sequencerStep_moves (hr ▸ h)
  case inr.inr.inr.inr.inl => rw [hr] at h; cases h; exact .inl (slotTick_macState s)
  case inr.inr.inr.inr.inr => exact absurd hreset hne

/-- Settles O54: a turn other than reset keeps the state of the MAC or makes a move of R210 (`runTurn_moves`), and a
reset turn ends in `IDLE`. -/
theorem onlyTheTransitionsOfR210 : Obligations.OnlyTheTransitionsOfR210 := by
  intro s t h hne
  by_cases hreset : s.nextTurn = .reset
  · rw [step, hreset] at h
    cases h
    exact .inr ⟨hreset, rfl⟩
  · exact .inl ((runTurn_moves (s := s.afterTurn) hreset h).resolve_left hne)

end Sys2Proof.Machine
end

section
/-! PROOFS. A frame in flight with nobody else acting (spec/45_mac.md R220, R229, R231): it goes out whole without
contention (O57), gives up on a busy medium (O58), and always comes to its end within the bound of R229 (O59). -/

namespace Sys2Proof.Machine

/-! ### Unscheduled runs of the sequencer -/

/-- With nothing scheduled an enabled step of the sequencer is the transition that is next (R220). -/
theorem runCore_sequencer {s t : State} (hs : s.sched = []) (he : s.sequencerEnabled = true)
    (h : sequencerStep s = .next t) (n : Nat) : runCore (n + 1) s = runCore n t := by
  refine runCore_succ ?_ n
  rw [step_unscheduled hs, if_pos he, h]

theorem sequencerEnabled_sense {s : State} (hm : s.macState = .sense) : s.sequencerEnabled = true := by
  rw [State.sequencerEnabled, hm]

theorem sequencerEnabled_transmit {s : State} (hm : s.macState = .transmit) : s.sequencerEnabled = true := by
  rw [State.sequencerEnabled, hm]

theorem sequencerEnabled_backoff {s : State} (hm : s.macState = .backoff) (hc : s.backoffCnt = 0) :
    s.sequencerEnabled = true := by
  rw [State.sequencerEnabled, hm, hc]
  rfl

/-! ### A frame without contention -/

/-- R221: the medium is idle. -/
theorem senseStep_of_idle {s : State} {rest : List Nat} (ha : s.attempt.toNat < 16) (hd : s.draws = 0 :: rest) :
    senseStep s = { s with txIdx := 0, macState := .transmit, draws := rest } := by
  have hidle : ¬ s.drawValue 1 = 1 := by rw [State.drawValue_of_draws hd (by decide)]; decide
  have hmore : ¬ s.attempt = 16 := fun h => Nat.ne_of_lt ha (attempt_eq_16_iff.1 h)
  rw [senseStep_eq, if_neg hmore, if_neg hidle, State.afterDraw_of_draws hd]

/-- R222: no collision, and the byte is written. -/
theorem transmitStep_of_clear {s : State} {b : Byte} {rest : List Nat} (hb : s.txf[s.txIdx.toNat]? = some b)
    (hd : s.draws = 0 :: 1 :: rest) :
    transmitStep s = .next (State.byteWritten { s with draws := rest, txTrace := s.txTrace ++ [b] }) := by
  have hclear : ¬ s.drawValue 1 = 1 := by rw [State.drawValue_of_draws hd (by decide)]; decide
  have hafter : s.afterDraw = { s with draws := 1 :: rest } := State.afterDraw_of_draws hd
  have hok : ¬ s.afterDraw.drawValue 1 = 0 := by
    rw [hafter, State.drawValue_of_draws rfl le_rfl]
    decide
  rw [transmitStep_of_byte hb, if_neg hclear, if_neg hok, hafter]
  rfl

theorem byteWritten_of_last {s : State} (h : (s.txIdx + 1).toNat = s.txf.length) :
    s.byteWritten =
      { s with txIdx := s.txIdx + 1, macState := .success, evTrace := s.evTrace ++ [.txDone true] } := by
  rcases byteWritten_cases s with ⟨-, hw⟩ | ⟨hne, -⟩
  · exact hw
  · exact absurd h hne

theorem byteWritten_of_more {s : State} (h : (s.txIdx + 1).toNat ≠ s.txf.length) :
    s.byteWritten = { s with txIdx := s.txIdx + 1 } := by
  rcases byteWritten_cases s with ⟨hlast, -⟩ | ⟨-, hw⟩
  · exact absurd hlast h
  · exact hw

/-- R222: a byte before the last goes out, with nothing scheduled. -/
theorem runCore_byte_of_more {s : State} {b : Byte} {rest : List Nat} (hm : s.macState = .transmit) (hs : s.sched = [])
    (hb : s.txf[s.txIdx.toNat]? = some b) (hd : s.draws = 0 :: 1 :: rest)
    (hmore : (s.txIdx + 1).toNat ≠ s.txf.length) (n : Nat) :
    runCore (n + 1) s =
      runCore n { s with txIdx := s.txIdx + 1, draws := rest, txTrace := s.txTrace ++ [b] } := by
  refine runCore_sequencer hs (sequencerEnabled_transmit hm) ?_ n
  rw [sequencerStep_transmit hm, transmitStep_of_clear hb hd]
  exact congrArg _ (byteWritten_of_more hmore)

/-- R222, R223: the last byte goes out, with nothing scheduled. -/
theorem runCore_byte_of_last {s : State} {b : Byte} {rest : List Nat} (hm : s.macState = .transmit) (hs : s.sched = [])
    (hb : s.txf[s.txIdx.toNat]? = some b) (hd : s.draws = 0 :: 1 :: rest)
    (hlast : (s.txIdx + 1).toNat = s.txf.length) (n : Nat) :
    runCore (n + 1) s =
      runCore n
        { s with
          macState := .success, txIdx := s.txIdx + 1, draws := rest, txTrace := s.txTrace ++ [b]
          evTrace := s.evTrace ++ [.txDone true] } := by
  refine runCore_sequencer hs (sequencerEnabled_transmit hm) ?_ n
  rw [sequencerStep_transmit hm, transmitStep_of_clear hb hd]
  exact congrArg _ (byteWritten_of_last hlast)

/-- What the index says of the bytes `b :: left` that are still to be written. -/
theorem txIdx_of_drop {s : State} {b : Byte} {left : Bytes} (hl : s.txf.length ≤ 138)
    (hleft : s.txf.drop s.txIdx.toNat = b :: left) :
    s.txf[s.txIdx.toNat]? = some b ∧ (s.txIdx + 1).toNat + left.length = s.txf.length
      ∧ s.txf.drop (s.txIdx + 1).toNat = left := by
  have hb : s.txf[s.txIdx.toNat]? = some b := by rw [← List.head?_drop, hleft]; rfl
  have hnext : (s.txIdx + 1).toNat = s.txIdx.toNat + 1 := txIdx_succ_toNat hb hl
  have hlen := congrArg List.length hleft
  rw [List.length_drop, List.length_cons] at hlen
  exact ⟨hb, by omega, by rw [hnext, ← List.tail_drop, hleft]; rfl⟩

/-- R222, R223, R231: with no collision and every write accepted, the bytes `w` that are left of the frame go out one by
one. -/
theorem runCore_transmit {w : Bytes} {s : State} {rest : List Nat} (hm : s.macState = .transmit) (hs : s.sched = [])
    (hl : s.txf.length ≤ 138) (hleft : s.txf.drop s.txIdx.toNat = w) (h1 : 1 ≤ w.length)
    (hd : s.draws = (List.replicate w.length [0, 1]).flatten ++ rest) :
    runCore w.length s = .next
      { s with
        macState := .success, txIdx := BitVec.ofNat 8 s.txf.length, draws := rest, txTrace := s.txTrace ++ w
        evTrace := s.evTrace ++ [.txDone true] } := by
  induction w generalizing s with
  | nil => exact absurd h1 (by decide)
  | cons b left ih =>
    obtain ⟨hb, hlen, hdrop⟩ := txIdx_of_drop hl hleft
    cases left with
    | nil =>
      have hlast : s.txIdx + 1 = BitVec.ofNat 8 s.txf.length := by
        rw [← hlen, List.length_nil, Nat.add_zero, BitVec.ofNat_toNat, BitVec.setWidth_eq]
      rw [← hlast]
      exact runCore_byte_of_last hm hs hb hd hlen 0
    | cons c left =>
      have hmore : (s.txIdx + 1).toNat ≠ s.txf.length := by
        rw [List.length_cons] at hlen
        omega
      rw [List.append_cons s.txTrace b]
      exact (runCore_byte_of_more hm hs hb hd hmore _).trans (ih hm hs hl hdrop (Nat.succ_pos _) rfl)

/-- Settles O57: the idle sense (`senseStep_of_idle`), then the transmission of the whole frame (`runCore_transmit`). -/
theorem uncontendedFrameGoesOut : Obligations.UncontendedFrameGoesOut := by
  intro s rest hm ha h1 hl hs hd
  have hsense := (sequencerStep_sense hm).trans (congrArg _ (senseStep_of_idle ha hd))
  rw [runCore_sequencer hs (sequencerEnabled_sense hm) hsense]
  exact runCore_transmit rfl hs hl rfl h1 rfl

/-! ### A busy medium -/

/-- R221: the medium is busy, and the delay drawn is 0. -/
theorem senseStep_of_busy {s : State} {rest : List Nat} (ha : s.attempt.toNat < 16) (hd : s.draws = 1 :: 0 :: rest) :
    senseStep s =
      { s with
        macState := .backoff, backoffCnt := 0, draws := rest, evTrace := s.evTrace ++ [.mediumBusy s.attempt] } := by
  have hbusy : s.drawValue 1 = 1 := State.drawValue_of_draws hd le_rfl
  have hmore : ¬ s.attempt = 16 := fun h => Nat.ne_of_lt ha (attempt_eq_16_iff.1 h)
  have hafter : s.afterDraw = { s with draws := 0 :: rest } := State.afterDraw_of_draws hd
  have hdelay : s.afterDraw.drawValue (bmax s.attempt.toNat) = 0 := by
    rw [hafter, State.drawValue_of_draws rfl (Nat.zero_le _)]
  rw [senseStep_eq, if_neg hmore, if_pos hbusy, hdelay, hafter]
  rfl

/-- R221, R225: a failed cycle of two steps, with nothing scheduled: the busy sense and the expiry of a backoff of 0. -/
theorem runCore_busy_cycle {s : State} {rest : List Nat} (hm : s.macState = .sense) (hs : s.sched = [])
    (hc : s.backoffCnt = 0) (ha : s.attempt.toNat < 16) (hd : s.draws = 1 :: 0 :: rest) (n : Nat) :
    runCore (n + 2) s =
      runCore n
        { s with attempt := s.attempt + 1, draws := rest, evTrace := s.evTrace ++ [.mediumBusy s.attempt] } := by
  have hsense := (sequencerStep_sense hm).trans (congrArg _ (senseStep_of_busy ha hd))
  rw [runCore_sequencer hs (sequencerEnabled_sense hm) hsense, hm, hc]
  refine runCore_sequencer ?_ (sequencerEnabled_backoff rfl rfl) ?_ n
  · exact hs
  · rfl

/-- R221, R226: `k` more busy senses up to attempt 16 end in `GIVE_UP`. -/
theorem runCore_busy {k : Nat} {s : State} {rest : List Nat} (hm : s.macState = .sense) (hs : s.sched = [])
    (hc : s.backoffCnt = 0) (ha : s.attempt.toNat + k = 16)
    (hd : s.draws = (List.replicate k [1, 0]).flatten ++ rest) :
    runCore (2 * k + 1) s = .next
      { s with
        macState := .giveUp, attempt := 16, draws := rest
        evTrace := s.evTrace ++ ((List.range' s.attempt.toNat k).map fun j => .mediumBusy (BitVec.ofNat 5 j))
          ++ [.txDone false] } := by
  induction k generalizing s with
  | zero =>
    have hlast : s.attempt = 16 := attempt_eq_16_iff.2 ha
    have hgiveUp : sequencerStep s =
        .next
          { s with macState := .giveUp, attempt := 16, draws := rest, evTrace := s.evTrace ++ [.txDone false] } := by
      rw [sequencerStep_sense hm, senseStep_eq, if_pos hlast, ← hlast]
      exact hd ▸ rfl
    rw [List.range'_zero, List.map_nil, List.append_nil]
    exact runCore_sequencer hs (sequencerEnabled_sense hm) hgiveUp 0
  | succ k ih =>
    have hlt : s.attempt.toNat < 16 := by omega
    have hnext : (s.attempt + 1).toNat = s.attempt.toNat + 1 := attempt_succ_toNat hlt
    have hrun := ih (s := { s with
      attempt := s.attempt + 1, draws := (List.replicate k [1, 0]).flatten ++ rest
      evTrace := s.evTrace ++ [.mediumBusy s.attempt] }) hm hs hc (by rw [hnext]; omega) rfl
    have hcycle := runCore_busy_cycle hm hs hc hlt hd (2 * k + 1)
    rw [List.range'_succ, List.map_cons, BitVec.ofNat_toNat, BitVec.setWidth_eq, List.append_cons s.evTrace, ← hnext]
    exact hcycle.trans hrun

/-- Settles O58: sixteen cycles from attempt 0 (`runCore_busy`). -/
theorem busyMediumGivesUp : Obligations.BusyMediumGivesUp := by
  intro s rest hm ha hc hs hd
  have hzero : s.attempt.toNat = 0 := by rw [ha]; rfl
  have hrun := runCore_busy hm hs hc (by rw [hzero]) hd
  rwa [hzero, ← List.range_eq_range'] at hrun

/-! ### The bound of R229 -/

/-- R229: what the attempts from `a` on can take, for a frame of `n` bytes: for each the `n + 3` steps of the sequencer
that fail as late as possible and the longest delay, and then the `SENSE` step that gives up. -/
def attemptsBound (n a : Nat) : Nat := ∑ j ∈ Finset.Ico a 16, (n + 3 + bmax j) + 1

theorem attemptsBound_of_lt (n : Nat) {a : Nat} (h : a < 16) :
    attemptsBound n a = n + 3 + bmax a + attemptsBound n (a + 1) := by
  rw [attemptsBound, Finset.sum_eq_sum_Ico_succ_bot h, attemptsBound, Nat.add_assoc]

theorem attemptsBound_le (n a : Nat) : attemptsBound n a ≤ attemptsBound n 0 :=
  Nat.succ_le_succ (Finset.sum_le_sum_of_subset (Finset.Ico_subset_Ico_left (Nat.zero_le a)))

/-- R229: the longest delays of the 16 attempts sum to 7151. -/
theorem sum_bmax : ∑ j ∈ Finset.Ico 0 16, bmax j = 7151 := by decide

theorem attemptsBound_zero (n : Nat) : attemptsBound n 0 = 16 * (n + 3) + 1 + 7151 := by
  rw [attemptsBound, Finset.sum_add_distrib, sum_bmax, Finset.sum_const, Nat.card_Ico, smul_eq_mul]

/-- A bound on the transitions that a frame of `n` bytes has still to make, in each state of the MAC, from the attempt
`a`, the index `i` and the countdown `c`; where `workLeft` counts 138 bytes and 1023 slots for every attempt, it
counts those of the frame and of R218. -/
def transitionsLeft (n a i c : Nat) : MacState → Nat
  | .idle | .success | .giveUp => 0
  | .sense => attemptsBound n a
  | .transmit => (n - i) + 2 + bmax a + attemptsBound n (a + 1)
  | .collided => 2 + bmax a + attemptsBound n (a + 1)
  | .backoff => c + 1 + attemptsBound n (a + 1)

def State.restBound (s : State) : Nat :=
  transitionsLeft s.txf.length s.attempt.toNat s.txIdx.toNat s.backoffCnt.toNat s.macState

theorem restBound_of {s : State} {m : MacState} (hm : s.macState = m) :
    s.restBound = transitionsLeft s.txf.length s.attempt.toNat s.txIdx.toNat s.backoffCnt.toNat m := by
  rw [State.restBound, hm]

/-- Whatever its state, a frame in flight is within the bound of R229. -/
theorem restBound_le {s : State} (h : Inv s) : s.restBound ≤ 16 * (s.txf.length + 3) + 1 + 7151 := by
  rw [← attemptsBound_zero]
  have hle := attemptsBound_le s.txf.length s.attempt.toNat
  have hcycle (hlt : s.attempt.toNat < 16) := attemptsBound_of_lt s.txf.length hlt
  cases hm : s.macState <;> rw [restBound_of hm] <;> simp only [transitionsLeft]
  case sense => exact hle
  case transmit =>
    have hsum := hcycle (h.mac hm).phase.1
    omega
  case collided =>
    have hsum := hcycle (h.mac hm).phase.1
    omega
  case backoff =>
    have hsum := hcycle (h.mac hm).attempt_lt
    have hdelay : s.backoffCnt.toNat ≤ bmax s.attempt.toNat := h.backoffBound hm
    omega
  all_goals exact Nat.zero_le _

theorem senseStep_restBound_lt {s : State} (h : Inv s) (hm : s.macState = .sense) :
    (senseStep s).restBound < s.restBound := by
  have hbefore : s.restBound = attemptsBound s.txf.length s.attempt.toNat := restBound_of hm
  have hle := h.attemptBound
  rcases senseStep_cases s with ⟨-, hs⟩ | ⟨hne, -, hs⟩ | ⟨hne, -, hs⟩ <;> rw [hs, hbefore]
  case inl => exact Nat.succ_pos _
  case inr.inl =>
    have hcycle := attemptsBound_of_lt s.txf.length (Nat.lt_of_le_of_ne hle hne)
    have hdelay := backoff_toNat_le s.afterDraw s.attempt.toNat
    have hafter : (s.afterDraw.enterBackoff.emit (.mediumBusy s.attempt)).restBound
        = (BitVec.ofNat 10 (s.afterDraw.drawValue (bmax s.attempt.toNat))).toNat + 1
          + attemptsBound s.txf.length (s.attempt.toNat + 1) := rfl
    omega
  case inr.inr =>
    have hcycle := attemptsBound_of_lt s.txf.length (Nat.lt_of_le_of_ne hle hne)
    have hafter : State.restBound { s.afterDraw with txIdx := 0, macState := .transmit }
        = s.txf.length + 2 + bmax s.attempt.toNat + attemptsBound s.txf.length (s.attempt.toNat + 1) := rfl
    omega

theorem restBound_transmit {s : State} (hm : s.macState = .transmit) :
    s.restBound = (s.txf.length - s.txIdx.toNat) + 2 + bmax s.attempt.toNat
      + attemptsBound s.txf.length (s.attempt.toNat + 1) := restBound_of hm

theorem collide_restBound_lt {s : State} (h : Inv s) (hm : s.macState = .transmit) (cause : CollisionCause) :
    (s.collide cause).restBound < s.restBound := by
  have hin := h.txIdxTransmit hm
  have hafter : (s.collide cause).restBound
      = 2 + bmax s.attempt.toNat + attemptsBound s.txf.length (s.attempt.toNat + 1) := rfl
  rw [restBound_transmit hm, hafter]
  omega

theorem byteWritten_restBound_lt {s : State} (h : Inv s) (hm : s.macState = .transmit) :
    s.byteWritten.restBound < s.restBound := by
  have hin := h.txIdxTransmit hm
  have hnext : (s.txIdx + 1).toNat = s.txIdx.toNat + 1 :=
    txIdx_succ_toNat (List.getElem?_eq_getElem hin) h.txfBound
  rcases byteWritten_cases s with ⟨-, hs⟩ | ⟨-, hs⟩ <;> rw [hs, restBound_transmit hm]
  case inl => exact Nat.lt_of_lt_of_le (Nat.succ_pos _) (Nat.le_add_left _ _)
  case inr =>
    have hafter := restBound_transmit (s := { s with txIdx := s.txIdx + 1 }) hm
    rw [hafter]
    dsimp only
    omega

theorem transmitStep_restBound_lt {s t : State} (h : Inv s) (hm : s.macState = .transmit)
    (hs : transmitStep s = .next t) : t.restBound < s.restBound := by
  rcases transmitStep_cases s with ⟨-, ht⟩ | ⟨-, -, ht⟩ | ⟨b, -, -, ⟨-, ht⟩ | ⟨-, ht⟩⟩ <;> rw [ht] at hs <;> cases hs
  case inl => exact collide_restBound_lt h.afterDraw hm .trial
  case inr.inr.inl => exact byteWritten_restBound_lt (h.afterDraw.chanWrite [b]) hm
  case inr.inr.inr => exact collide_restBound_lt (h.afterDraw.chanWrite [b]) hm .write

theorem collidedStep_restBound_lt {s : State} (hm : s.macState = .collided) :
    (collidedStep s).restBound < s.restBound := by
  have hbefore : s.restBound
      = 2 + bmax s.attempt.toNat + attemptsBound s.txf.length (s.attempt.toNat + 1) := restBound_of hm
  have hdelay := backoff_toNat_le s.afterDraw s.attempt.toNat
  have hafter : (collidedStep s).restBound
      = (BitVec.ofNat 10 (s.afterDraw.drawValue (bmax s.attempt.toNat))).toNat + 1
        + attemptsBound s.txf.length (s.attempt.toNat + 1) := by rw [collidedStep_eq]; rfl
  omega

theorem restBound_backoff {s : State} (hm : s.macState = .backoff) :
    s.restBound = s.backoffCnt.toNat + 1 + attemptsBound s.txf.length (s.attempt.toNat + 1) := restBound_of hm

theorem expireStep_restBound_lt {s : State} (h : Inv s) (hm : s.macState = .backoff) :
    (expireStep s).restBound < s.restBound := by
  have hnext : (s.attempt + 1).toNat = s.attempt.toNat + 1 := attempt_succ_toNat (h.mac hm).attempt_lt
  have hafter : (expireStep s).restBound = attemptsBound s.txf.length (s.attempt + 1).toNat := rfl
  rw [restBound_backoff hm, hafter, hnext]
  omega

theorem slotTick_restBound_lt {s : State} (hm : s.macState = .backoff) (hc : s.backoffCnt ≠ 0) :
    (slotTick s).restBound < s.restBound := by
  have hpred := backoffCnt_pred_toNat hc
  have hpos : s.backoffCnt.toNat ≠ 0 := BitVec.toNat_eq.not.1 hc
  rcases slotTick_cases s with ⟨-, -, hs⟩ | ⟨hno, -⟩
  · have hafter := restBound_backoff (s := { s with backoffCnt := s.backoffCnt - 1 }) hm
    rw [hs, restBound_backoff hm, hafter]
    dsimp only
    omega
  · exact absurd ⟨hm, hc⟩ hno

theorem sequencerStep_restBound_lt {s t : State} (h : Inv s) (he : s.sequencerEnabled = true)
    (hs : sequencerStep s = .next t) : t.restBound < s.restBound := by
  rcases sequencerStep_cases s with ⟨hm, hq⟩ | ⟨hm, hq⟩ | ⟨hm, hq⟩ | ⟨hm, -, hq⟩ | ⟨hno, -⟩
  case inl => rw [hq] at hs; cases hs; exact senseStep_restBound_lt h hm
  case inr.inl => exact transmitStep_restBound_lt h hm (hq ▸ hs)
  case inr.inr.inl => rw [hq] at hs; cases hs; exact collidedStep_restBound_lt hm
  case inr.inr.inr.inl => rw [hq] at hs; cases hs; exact expireStep_restBound_lt h hm
  case inr.inr.inr.inr => rw [he] at hno; cases hno

/-- R229: with nothing scheduled every transition of a frame in flight brings it nearer to its end. -/
theorem step_restBound_lt {s t : State} (h : s.Alone) (hb : s.macState.busy = true) (hs : step s = .next t) :
    t.restBound < s.restBound := by
  rw [step_unscheduled h.sched] at hs
  cases he : s.sequencerEnabled with
  | true =>
    rw [he] at hs
    exact sequencerStep_restBound_lt h.inv he hs
  | false =>
    obtain ⟨hm, hc⟩ := countdown_of_busy hb he
    rw [he] at hs
    cases hs
    exact slotTick_restBound_lt hm hc

/-! ### Termination -/

/-- A frame in flight comes to its end within its own bound. -/
theorem frame_ends {s : State} (h : s.Alone) (hb : s.macState.busy = true) :
    ∃ n ≤ s.restBound, ∃ t, runCore n s = .next t ∧ (t.macState = .success ∨ t.macState = .giveUp) := by
  induction hn : s.restBound using Nat.strong_induction_on generalizing s with
  | _ bound ih =>
    subst hn
    obtain ⟨t, ht, hon, -⟩ := h.step
    have hlt : t.restBound < s.restBound := step_restBound_lt h hb ht
    have hrun : ∀ n, runCore (n + 1) s = runCore n t := runCore_succ ht
    cases hbt : t.macState.busy with
    | true =>
      obtain ⟨n, hle, u, hu, hend⟩ := ih _ hlt hon.alone hbt rfl
      exact ⟨n + 1, by omega, u, (hrun n).trans hu, hend⟩
    | false =>
      have hawake : s.macState ≠ .idle := fun hidle => by rw [hidle] at hb; cases hb
      have hend := (MacState.busy_eq_false_iff.1 hbt).resolve_left (hon.awake hawake)
      exact ⟨1, by omega, t, hrun 0, hend⟩

/-- Settles O59: the frame ends within its own bound (`frame_ends`), which is within that of R229 (`restBound_le`). -/
theorem macTerminates : Obligations.MacTerminates := by
  intro s h hs hb
  obtain ⟨n, hle, hend⟩ := frame_ends ⟨h, hs⟩ hb
  exact ⟨n, hle.trans (restBound_le h), hend⟩

end Sys2Proof.Machine
end

section
/-! PROOFS. Errors (spec/60_exceptions.md R250, R251, R255): an operation that answers an error has left the nine fields
of R22 and the channel as they were, but for the receive buffer emptied by `ERR_RX_OVERFLOW` (O11). -/

namespace Sys2Proof.Machine

/-! ### The status of an error answer -/

/-- No two rows of R90 have one code. -/
theorem status_code_injective : Function.Injective Status.code := by
  intro a b
  cases a <;> cases b <;> decide

/-- A response is read as one status only. -/
theorem status_eq_of_response {a b : Status} {response results : Bytes} (ha : response = a.code :: results)
    (hb : response = [b.code]) : a = b :=
  status_code_injective (List.cons.inj (ha.symm.trans hb)).1

/-- R82, R251: an error answer is the failed operand test, or an error that the operation is listed for. -/
theorem exec_error_status {i : Instr} {s t : State} {e : Status} (h : exec i s = .next t) (hne : e ≠ .ok)
    (hresp : t.response = [e.code]) :
    (i.wellFormed = false ∧ e = .errOperand) ∨ (i.wellFormed = true ∧ mayRaise i e = true) := by
  cases hw : i.wellFormed with
  | false =>
    rw [exec_of_not_wellFormed hw] at h
    cases h
    exact .inl ⟨rfl, (status_eq_of_response (results := []) rfl hresp).symm⟩
  | true =>
    obtain ⟨u, e', results, hu, hresp', hstatus⟩ := exec_answersWithStatus (Instr.encodable_of_wellFormed hw) s
    obtain rfl : u = t := Host.Outcome.next.inj (hu.symm.trans h)
    obtain rfl := status_eq_of_response hresp' hresp
    exact .inr ⟨rfl, (hstatus.resolve_left hne).1⟩

theorem eq_rxDeliver_of_mayRaise_overflow {i : Instr} (h : mayRaise i .errRxOverflow = true) :
    ∃ c, i = .rxDeliver c := by
  cases i
  case rxDeliver c => exact ⟨c, rfl⟩
  all_goals cases h

/-- R251: `ERR_RX_OVERFLOW` is the answer of a delivery. -/
theorem exec_overflow_is_delivery {i : Instr} {s t : State} (h : exec i s = .next t)
    (hresp : t.response = [Status.errRxOverflow.code]) : ∃ c, t = deliver c s := by
  rcases exec_error_status h (by decide) hresp with ⟨-, he⟩ | ⟨hw, hraise⟩
  · cases he
  · obtain ⟨c, rfl⟩ := eq_rxDeliver_of_mayRaise_overflow hraise
    rw [exec_rxDeliver (of_decide_eq_true hw)] at h
    exact ⟨c, (Host.Outcome.next.inj h).symm⟩

/-! ### What an error leaves unchanged -/

/-- R23: whatever a delivery answers, it has written neither the channel nor a field of R22 other than the buffer. -/
theorem deliver_keeps (chunk : Bytes) (s : State) :
    (deliver chunk s).txTrace = s.txTrace ∧ (deliver chunk s).emuEn = s.emuEn ∧ SameMac s (deliver chunk s) := by
  obtain ⟨events, hframe⟩ := deliver_frame chunk s
  rw [hframe]
  exact ⟨rfl, rfl, rfl, rfl, rfl, rfl, rfl, rfl, rfl⟩

/-- The one error that a delivery answers is the overflow, and it leaves the buffer empty. -/
theorem deliver_error {chunk : Bytes} {s : State} {e : Status} (hne : e ≠ .ok)
    (hresp : (deliver chunk s).response = [e.code]) : e = .errRxOverflow ∧ (deliver chunk s).rxb = [] := by
  rcases deliver_response chunk s with ⟨results, hok⟩ | ⟨hover, hempty⟩
  · exact absurd (status_eq_of_response hok hresp).symm hne
  · exact ⟨(status_eq_of_response hover hresp).symm, hempty⟩

/-- R216: a bypass write that the channel refused has put nothing on it. -/
theorem sendDirect_of_failed {s : State} (h : s.chanOk = false) (w : Bytes) :
    s.sendDirect w = s.afterDraw.emit (.txDone false) := by
  rw [State.sendDirect, State.chanWrite_of_failed h, h]

/-- An operation that answers an error is a delivery, or has left the channel and the nine fields alone: the operations
that write them, an accepted send, `MAC.SET_EMU` and `MAC.STATS_RESET`, answer `OK`. -/
theorem exec_error_cases {i : Instr} {s t : State} {e : Status} (h : exec i s = .next t) (hne : e ≠ .ok)
    (hresp : t.response = [e.code]) :
    (t.txTrace = s.txTrace ∧ SamePersistent s t) ∨ ∃ c, t = deliver c s := by
  have not_ok : ∀ results, t.response ≠ Status.ok.code :: results := fun _ hok =>
    hne (status_eq_of_response hok hresp).symm
  rcases exec_cases i s with ⟨r, hx⟩ | ⟨c, -, -, hx⟩ | ⟨p, r, -, hx⟩ | ⟨w, -, -, -, -, -, hx⟩ | ⟨w, e', -, -, -, he', hx⟩
    | ⟨a, -, hx⟩ | ⟨-, hx⟩ | ⟨a, r, -, hx⟩ <;> rw [hx] at h <;> cases h
  case inl => exact .inl ⟨rfl, .refl s⟩
  case inr.inl => exact .inr ⟨c, rfl⟩
  case inr.inr.inl => exact .inl ⟨by rw [inject_state], injected_same s p r⟩
  case inr.inr.inr.inl => exact absurd rfl (not_ok [])
  case inr.inr.inr.inr.inl =>
    cases hchan : s.chanOk with
    | true =>
      rw [hchan, if_pos rfl] at he'
      subst he'
      exact absurd rfl (not_ok [])
    | false =>
      rw [sendDirect_of_failed hchan]
      exact .inl ⟨rfl, .refl s⟩
  case inr.inr.inr.inr.inr.inl => exact absurd rfl (not_ok [])
  case inr.inr.inr.inr.inr.inr.inl => exact absurd rfl (not_ok [])
  case inr.inr.inr.inr.inr.inr.inr => exact .inl ⟨rfl, .refl s⟩

/-- Settles O11: the overflow is a delivery, which keeps all but the buffer (`deliver_keeps`); any other error is no
delivery's, and leaves everything (`exec_error_cases`). -/
theorem errorsAreLocal : Obligations.ErrorsAreLocal := by
  intro i s t e h hne hresp
  by_cases hover : e = .errRxOverflow
  · rw [if_pos hover]
    subst hover
    obtain ⟨c, rfl⟩ := exec_overflow_is_delivery h hresp
    obtain ⟨htx, hrest⟩ := deliver_keeps c s
    exact ⟨htx, (deliver_error hne hresp).2, hrest⟩
  · rw [if_neg hover]
    rcases exec_error_cases h hne hresp with hkept | ⟨c, rfl⟩
    · exact hkept
    · exact absurd (deliver_error hne hresp).1 hover

end Sys2Proof.Machine
end
